-- ==== Sys2Proof/Word.lean ====
section
/-! DEFINITION. The word types of the block: an 8-bit channel or register value, a 2-bit button mask, a 32-bit command word. -/

namespace Sys2Proof

/-- One 8-bit unsigned channel cell, operand or debug register value (R9, R20). -/
abbrev Byte := BitVec 8

/-- A logical button mask, active-high: bit 0 is button A, bit 1 is button B (R12, R80). -/
abbrev Buttons := BitVec 2

/-- A host command word (R81). -/
abbrev CmdWord := BitVec 32

end Sys2Proof
end

