-- ==== Sys2Proof/Config.lean ====
section
/-! DEFINITION. The configuration record of R8, its defaults, and the values the spec leaves open. -/

namespace Sys2Proof

/-- The three channels of a pixel (R11). -/
inductive Channel where
  | R
  | G
  | B
  deriving DecidableEq, Repr

/-- The polarity of a Rainbow table pair (R140): the step itself, or its complement. -/
inductive Polarity where
  | up
  | down
  deriving DecidableEq, Repr

/-- One entry of RAINBOW_TABLE: the channels it drives, each with a polarity (R140). -/
abbrev RainbowEntry := List (Channel × Polarity)

/-- COMET_COMBINE (R148). -/
inductive CometCombine where
  | assign
  | satAdd
  | maximum
  deriving DecidableEq, Repr

/-- The implementation parameters of R8, one field for each row of its table but the three OPEN ones. Fixed for a run (R224). -/
structure Config where
  /-- `N`, the LED count. -/
  n : Nat
  /-- `AUTORUN`, the strap between the superloop and the host port (R177). -/
  autorun : Bool
  /-- `RB_CALL_STEP` -/
  rbCallStep : Byte
  /-- `RB_PIX_STEP` -/
  rbPixStep : Byte
  /-- `RAINBOW_TABLE`, eight entries (R140). -/
  rainbowTable : List RainbowEntry
  /-- `RB_PACE_MS` -/
  rbPaceMs : Nat
  /-- `RP_STEP` -/
  rpStep : Byte
  /-- `RP_DECAY` -/
  rpDecay : Byte
  /-- `RP_PACE_MS` -/
  rpPaceMs : Nat
  /-- `RP_OFFSET` -/
  rpOffset : Nat
  /-- `COMET_COMBINE` -/
  cometCombine : CometCombine
  /-- `T_ROLL` -/
  tRoll : Nat
  /-- `T_PERIOD` -/
  tPeriod : Nat
  /-- `DIM_K_MODE1` -/
  dimKMode1 : Byte
  /-- `SOLID_LEVEL[2]` -/
  solidLevel2 : Byte
  /-- `SOLID_LEVEL[3]` -/
  solidLevel3 : Byte
  /-- `SOLID_LEVEL[4]` -/
  solidLevel4 : Byte
  /-- `SOLID_LEVEL[5]` -/
  solidLevel5 : Byte
  /-- `DEBOUNCE_MS` -/
  debounceMs : Nat
  /-- `TX_SETTLE_MS` -/
  txSettleMs : Nat
  deriving DecidableEq, Repr

/-- The default RAINBOW_TABLE (R141, D13): black, red, yellow, green, cyan, blue, magenta, red, black. -/
def Config.defaultRainbowTable : List RainbowEntry :=
  [ [(.R, .up)], [(.G, .up)], [(.R, .down)], [(.B, .up)],
    [(.G, .down)], [(.R, .up)], [(.B, .down)], [(.R, .down)] ]

/-- The defaults of R8 for a strip of `n` pixels (RP_OFFSET is `floor(n/2)`). -/
def Config.ofCount (n : Nat) : Config where
  n := n
  autorun := true
  rbCallStep := 32
  rbPixStep := 32
  rainbowTable := Config.defaultRainbowTable
  rbPaceMs := 25
  rpStep := 4
  rpDecay := 3
  rpPaceMs := 50
  rpOffset := n / 2
  cometCombine := .assign
  tRoll := 200
  tPeriod := 600
  dimKMode1 := 3
  solidLevel2 := 255
  solidLevel3 := 50
  solidLevel4 := 1
  solidLevel5 := 0
  debounceMs := 50
  txSettleMs := 1

/-- The default record of R8: N = 20, AUTORUN = 1. -/
def Config.standard : Config := Config.ofCount 20

/-- FREE VALUE (R12, item 9 of 93_implementation_defined.md): what the `k`-th button sample reads where the environment has fixed
no sample of its own. It has no body, so nothing can be proved of it. -/
opaque Config.freeBtn : Nat → Buttons

/-- `T_SU`, OPEN: the data set-up time before the rising clock edge. Read by no rule (R135). -/
opaque Config.tSu : Nat

/-- `T_CLKH`, OPEN: the clock high time. Read by no rule (R135). -/
opaque Config.tClkH : Nat

/-- `T_CLKL`, OPEN: the clock low time. Read by no rule (R135). -/
opaque Config.tClkL : Nat

end Sys2Proof
end

