-- ==== Sys2Proof/Syntax.lean ====
section
/-! DEFINITION. The fourteen commands (R87), the opcode map's names and formats, and the assembler's source lines (R92, R93). -/

namespace Sys2Proof

/-- The command set: one constructor for each row of spec/opcode_table.json. The operands have the widths of their fields (R86),
and a channel is one of the three, so that `ch = 3` cannot be written down. -/
inductive Instr where
  | nop
  | pbrd (idx : Byte) (ch : Channel)
  | pbwr (idx : Byte) (ch : Channel) (value : Byte)
  | pbfill (value : Byte)
  | pbdecay (delta : Byte)
  | dim (k : Byte)
  | rainbow
  | rollpt
  | txframe
  | btnpoll
  | render
  | frame
  | csrrd (reg : Byte)
  | csrwr (reg : Byte) (value : Byte)
  deriving DecidableEq, Repr

/-- The command selected by `cmd[31:28]` (R87); 0xE and 0xF select none. -/
inductive Opcode where
  | nop
  | pbrd
  | pbwr
  | pbfill
  | pbdecay
  | dim
  | rainbow
  | rollpt
  | txframe
  | btnpoll
  | render
  | frame
  | csrrd
  | csrwr
  deriving DecidableEq, Repr

/-- The four word formats (R82 to R85). -/
inductive Format where
  | Z
  | I
  | P
  | C
  deriving DecidableEq, Repr

/-- Why a word decodes to no command (R89, R90). Every one of them raises ILLEGAL_CMD; the names are the model's. -/
inductive DecodeError where
  /-- opcode 0xE or 0xF -/
  | reservedOpcode
  /-- a bit the row's mask covers differs from the row's match word: a reserved field, or imm8 of a read, is nonzero -/
  | reservedField
  /-- a P-format word with `ch = 3` -/
  | illegalChannel
  deriving DecidableEq, Repr

/-- One line of assembler source (R92), or one pseudo-instruction (R93), with the numbers as they were written. -/
inductive AsmLine where
  | nop
  | pbrd (idx : Nat) (ch : Channel)
  | pbwr (idx : Nat) (ch : Channel) (value : Nat)
  | pbfill (value : Nat)
  | pbdecay (delta : Nat)
  | dim (k : Nat)
  | rainbow
  | rollpt
  | txframe
  | btnpoll
  | render
  | frame
  | csrrd (reg : Nat)
  | csrwr (reg : Nat) (value : Nat)
  | solid (v : Nat)
  | clear
  | halve
  | fade
  | setpix (i r g b : Nat)
  | setmode (m : Nat)
  deriving DecidableEq, Repr

end Sys2Proof
end

