-- ==== Sys2Proof/WellFormed.lean ====
section
/-! DEFINITION. What is well formed: a configuration (R8, R140) and a line of assembler source (R92). A term of `Instr` is well formed
by its type: its operands have their fields' widths and its channel is R, G or B. -/

namespace Sys2Proof

/-- A Rainbow table entry is a nonempty list of pairs with distinct channels (R140). -/
def RainbowEntry.legal (e : RainbowEntry) : Bool :=
  !e.isEmpty && decide ((e.map Prod.fst).Nodup)

/-- The legal ranges of R8. A configuration outside them is rejected (item 15 of 93_implementation_defined.md). The ranges 0..255
hold by the fields' type. -/
def Config.legal (c : Config) : Bool :=
  decide (1 ≤ c.n) && decide (c.n ≤ 256)
    && decide (c.rbCallStep ≠ 0) && decide (c.rbPixStep ≠ 0)
    && decide (c.rainbowTable.length = 8) && c.rainbowTable.all RainbowEntry.legal
    && decide (c.rpStep ≠ 0) && decide (c.rpOffset < c.n)
    && decide (c.tRoll ≤ c.tPeriod) && decide (1 ≤ c.tPeriod) && decide (c.tPeriod ≤ 65535)

/-- An operand fits its 8-bit field (R92: "idx or value > 255 … is an assembly error"). -/
def fitsField (x : Nat) : Bool := decide (x ≤ 255)

/-- Every number of the line fits its field (R92). -/
def AsmLine.wellFormed : AsmLine → Bool
  | .nop | .rainbow | .rollpt | .txframe | .btnpoll | .render | .frame | .clear | .halve | .fade => true
  | .pbrd idx _ => fitsField idx
  | .pbwr idx _ value => fitsField idx && fitsField value
  | .pbfill value => fitsField value
  | .pbdecay delta => fitsField delta
  | .dim k => fitsField k
  | .csrrd reg => fitsField reg
  | .csrwr reg value => fitsField reg && fitsField value
  | .solid v => fitsField v
  | .setpix i r g b => fitsField i && fitsField r && fitsField g && fitsField b
  | .setmode m => fitsField m

end Sys2Proof
end

