-- ==== Sys2Proof/Decode.lean ====
section
/-! DEFINITION. The decoder (R86 to R90), total on every 32-bit word, and after it the encoder from the formats (R82 to R85). -/

namespace Sys2Proof

/-- `cmd[31:28]` (R81). -/
def opField (w : CmdWord) : BitVec 4 := w.extractLsb' 28 4

/-- `imm8 = zext(cmd[7:0])` (R86). -/
def immField (w : CmdWord) : Byte := w.extractLsb' 0 8

/-- `idx = zext(cmd[23:16])`, and `reg` in format C (R86). -/
def idxField (w : CmdWord) : Byte := w.extractLsb' 16 8

/-- `ch = cmd[25:24]` (R86). -/
def chField (w : CmdWord) : BitVec 2 := w.extractLsb' 24 2

/-- The opcode map (R87). -/
def Opcode.ofField (op : BitVec 4) : Option Opcode :=
  match op.toNat with
  | 0x0 => some .nop
  | 0x1 => some .pbrd
  | 0x2 => some .pbwr
  | 0x3 => some .pbfill
  | 0x4 => some .pbdecay
  | 0x5 => some .dim
  | 0x6 => some .rainbow
  | 0x7 => some .rollpt
  | 0x8 => some .txframe
  | 0x9 => some .btnpoll
  | 0xA => some .render
  | 0xB => some .frame
  | 0xC => some .csrrd
  | 0xD => some .csrwr
  | _ => none

/-- The match column of R88. -/
def Opcode.matchWord : Opcode → CmdWord
  | .nop => 0x00000000
  | .pbrd => 0x10000000
  | .pbwr => 0x20000000
  | .pbfill => 0x30000000
  | .pbdecay => 0x40000000
  | .dim => 0x50000000
  | .rainbow => 0x60000000
  | .rollpt => 0x70000000
  | .txframe => 0x80000000
  | .btnpoll => 0x90000000
  | .render => 0xA0000000
  | .frame => 0xB0000000
  | .csrrd => 0xC0000000
  | .csrwr => 0xD0000000

/-- The mask column of R88. -/
def Opcode.mask : Opcode → CmdWord
  | .nop => 0xFFFFFFFF
  | .pbrd => 0xFC00FFFF
  | .pbwr => 0xFC00FF00
  | .pbfill => 0xFFFFFF00
  | .pbdecay => 0xFFFFFF00
  | .dim => 0xFFFFFF00
  | .rainbow => 0xFFFFFFFF
  | .rollpt => 0xFFFFFFFF
  | .txframe => 0xFFFFFFFF
  | .btnpoll => 0xFFFFFFFF
  | .render => 0xFFFFFFFF
  | .frame => 0xFFFFFFFF
  | .csrrd => 0xFF00FFFF
  | .csrwr => 0xFF00FF00

/-- The format column of R87. -/
def Opcode.format : Opcode → Format
  | .nop | .rainbow | .rollpt | .txframe | .btnpoll | .render | .frame => .Z
  | .pbfill | .pbdecay | .dim => .I
  | .pbrd | .pbwr => .P
  | .csrrd | .csrwr => .C

/-- The channel codes (R84): 0 = R, 1 = G, 2 = B, 3 = illegal. -/
def Channel.ofField (ch : BitVec 2) : Option Channel :=
  match ch.toNat with
  | 0 => some .R
  | 1 => some .G
  | 2 => some .B
  | _ => none

/-- The command of an opcode, its operands read from the fields of its format (R82 to R86); none where `ch = 3`. -/
def Opcode.instrOf (w : CmdWord) : Opcode → Option Instr
  | .nop => some .nop
  | .pbrd => (Channel.ofField (chField w)).map (fun ch => .pbrd (idxField w) ch)
  | .pbwr => (Channel.ofField (chField w)).map (fun ch => .pbwr (idxField w) ch (immField w))
  | .pbfill => some (.pbfill (immField w))
  | .pbdecay => some (.pbdecay (immField w))
  | .dim => some (.dim (immField w))
  | .rainbow => some .rainbow
  | .rollpt => some .rollpt
  | .txframe => some .txframe
  | .btnpoll => some .btnpoll
  | .render => some .render
  | .frame => some .frame
  | .csrrd => some (.csrrd (idxField w))
  | .csrwr => some (.csrwr (idxField w) (immField w))

/-- `decode(w)` of R89, its three rejections in its order. -/
def decode (w : CmdWord) : Except DecodeError Instr :=
  match Opcode.ofField (opField w) with
  | none => .error .reservedOpcode
  | some o =>
    if w &&& o.mask = o.matchWord then
      match o.instrOf w with
      | some i => .ok i
      | none => .error .illegalChannel
    else .error .reservedField

/-- The 32-bit command word whose bits are `w`, the bits above `nbits` being 0. -/
def tableWord (nbits w : Nat) : CmdWord := BitVec.ofNat 32 (w % 2 ^ nbits)

/-- The host's view of the decoder: the instruction of a word numbered as spec/opcode_table.json numbers it. -/
def decodeTableWord (nbits w : Nat) : Option Instr := (decode (tableWord nbits w)).toOption

/-- The channel's field (R84). -/
def Channel.code : Channel → BitVec 2
  | .R => 0
  | .G => 1
  | .B => 2

/-- A field's bits at bit `lo` of a word whose other bits are 0. -/
def placeField {width : Nat} (v : BitVec width) (lo : Nat) : CmdWord := v.setWidth 32 <<< lo

/-- A format Z word (R82): `op` in 31:28, the rest 0. -/
def encodeZ (op : BitVec 4) : CmdWord := placeField op 28

/-- A format I word (R83): `op` in 31:28, `imm8` in 7:0. -/
def encodeI (op : BitVec 4) (imm : Byte) : CmdWord := placeField op 28 ||| placeField imm 0

/-- A format P word (R84): `op` in 31:28, `ch` in 25:24, `idx` in 23:16, `imm8` in 7:0. -/
def encodeP (op : BitVec 4) (idx : Byte) (ch : Channel) (imm : Byte) : CmdWord :=
  placeField op 28 ||| placeField ch.code 24 ||| placeField idx 16 ||| placeField imm 0

/-- A format C word (R85): `op` in 31:28, `reg` in 23:16, `imm8` in 7:0. -/
def encodeC (op : BitVec 4) (reg imm : Byte) : CmdWord :=
  placeField op 28 ||| placeField reg 16 ||| placeField imm 0

/-- The word of a command: opcode (R87) and format (R82 to R85). -/
def encode : Instr → CmdWord
  | .nop => encodeZ 0x0
  | .pbrd idx ch => encodeP 0x1 idx ch 0
  | .pbwr idx ch value => encodeP 0x2 idx ch value
  | .pbfill value => encodeI 0x3 value
  | .pbdecay delta => encodeI 0x4 delta
  | .dim k => encodeI 0x5 k
  | .rainbow => encodeZ 0x6
  | .rollpt => encodeZ 0x7
  | .txframe => encodeZ 0x8
  | .btnpoll => encodeZ 0x9
  | .render => encodeZ 0xA
  | .frame => encodeZ 0xB
  | .csrrd reg => encodeC 0xC reg 0
  | .csrwr reg value => encodeC 0xD reg value

/-- The opcode of a command (R87). -/
def Instr.opcode : Instr → Opcode
  | .nop => .nop
  | .pbrd _ _ => .pbrd
  | .pbwr _ _ _ => .pbwr
  | .pbfill _ => .pbfill
  | .pbdecay _ => .pbdecay
  | .dim _ => .dim
  | .rainbow => .rainbow
  | .rollpt => .rollpt
  | .txframe => .txframe
  | .btnpoll => .btnpoll
  | .render => .render
  | .frame => .frame
  | .csrrd _ => .csrrd
  | .csrwr _ _ => .csrwr

end Sys2Proof
end

