-- ==== Sys2Proof/Machine/State.lean ====
section
/-! DEFINITION. The state of the block (R36), its port and environment (R80), the stop reasons, and the state after reset (R220). -/

namespace Sys2Proof.Machine

/-- The Pixel Buffer's cells as (linear cell address `3*i + c` (R61), byte) pairs, addresses strictly rising, no pair with the byte an
unlisted cell reads as. -/
abbrev Memory := List Host.Cell

/-- Three 8-bit channels: a Rainbow seed or local colour (R27, R34). -/
structure Colour where
  r : Byte
  g : Byte
  b : Byte
  deriving DecidableEq, Repr

/-- The Rainbow state (R27): `RB_SUB`, `RB_STEP`, and the seeds `RB_R`, `RB_G`, `RB_B`. -/
structure RainbowRegs where
  sub : BitVec 3
  step : Byte
  seed : Colour
  deriving DecidableEq, Repr

/-- The Rollpoints state (R28): `RP_CNT`, `RP_POS`, and `RP_CYC`, which never holds 7. -/
structure RollptRegs where
  cnt : Byte
  pos : Byte
  cyc : Fin 7
  deriving DecidableEq, Repr

/-- The driven levels of the two output lines (R31): `SCLK`, `SDATA`. -/
structure Lines where
  sclk : Bool
  sdata : Bool
  deriving DecidableEq, Repr

/-- The value of FAULT (R200): NONE, ILLEGAL_CMD, BAD_INDEX, BAD_REG, BAD_VALUE. Its 3-bit code is `FaultCode.code`. -/
inductive FaultCode where
  | noFault
  | illegalCmd
  | badIndex
  | badReg
  | badValue
  deriving DecidableEq, Repr

/-- One entry of the observation of a run (R178): an event of R12, or a button draw where it was taken. -/
inductive Event where
  /-- `emit Data(b)` -/
  | data (b : Bool)
  /-- `emit Clk(b)` -/
  | clk (b : Bool)
  /-- `emit Pace(ms)` -/
  | pace (ms : Nat)
  /-- `emit Resp(v)` -/
  | resp (v : Byte)
  /-- no output: the sample `b` that `sample Btn()` consumed here -/
  | draw (b : Buttons)
  deriving DecidableEq, Repr

/-- The `rst` input as the next step finds it (R80, R220). -/
inductive ResetPin where
  /-- `rst` = 0 through the next step -/
  | low
  /-- `rst` = 1 at the command boundary: a reset, and no command is taken -/
  | high
  /-- `rst` rises while the next command executes, after `k` entries of its observation: the command is abandoned there -/
  | rises (k : Nat)
  deriving DecidableEq, Repr

/-- The block between two commands: R36's state, the parameters it was built with (R8), and its port (R80). -/
structure State where
  /-- the parameters, fixed for the life of the block (R8, R224) -/
  cfg : Config
  /-- `PB` (R20) -/
  pb : Memory
  /-- `MODE`, 0..5; 6 and 7 are never held (R23) -/
  mode : Fin 6
  /-- `TCNT` (R25) -/
  tcnt : BitVec 16
  /-- `BTNPREV` (R26) -/
  btnPrev : Buttons
  /-- `RB_*` (R27) -/
  rb : RainbowRegs
  /-- `RP_*` (R28) -/
  rp : RollptRegs
  /-- `SCLK`, `SDATA` (R31) -/
  lines : Lines
  /-- `FAULT` (R32) -/
  fault : FaultCode
  /-- input: the `rst` pin -/
  rst : ResetPin
  /-- input: the words the host has still to have taken; the first is on `cmd`, and `cmd_valid` is 1 unless there is none (R80) -/
  pending : List CmdWord
  /-- input: the button samples the environment has already fixed, oldest first (R12) -/
  draws : List Buttons
  /-- the model's own: how many samples have been taken, which numbers the free samples -/
  drawCount : Nat
  /-- output: the transfer on `rsp` of the last step; `rsp_valid` is 1 exactly when there is one (R80, D34) -/
  rsp : Option Byte
  /-- output: `done` of the last step (R80) -/
  done : Bool
  /-- the model's own: the observation so far, oldest first (R178) -/
  trace : List Event
  deriving DecidableEq, Repr

/-- The state that reset gives a block built with the parameters `c` (R220): every row of R220's table, and the port at rest. -/
def State.resetOf (c : Config) : State where
  cfg := c
  pb := []
  mode := 0
  tcnt := 0
  btnPrev := 0
  rb := { sub := 0, step := 0, seed := { r := 0, g := 0, b := 0 } }
  rp := { cnt := 0, pos := 0, cyc := 0 }
  lines := { sclk := false, sdata := false }
  fault := .noFault
  rst := .low
  pending := []
  draws := []
  drawCount := 0
  rsp := none
  done := false
  trace := []

/-- The block with the default parameters of R8, right after reset (R220). -/
def State.reset : State := State.resetOf Config.standard

/-- Why the block has no further step. -/
inductive Fault where
  /-- Raised by `step` while FAULT ≠ 0 and `rst` is low: no command runs until `rst` (R203; item 12 of
  93_implementation_defined.md: stuck). Safe: the hardware does nothing in this state either. -/
  | halted (code : FaultCode)
  deriving DecidableEq, Repr

/-- Why the model gives no meaning. -/
inductive Refusal where
  /-- Raised by an arm of `exec` that has no meaning yet. Safe. No arm raises it. -/
  | notModelled (mnemonic : String)
  /-- Raised by `step` where the parameters are outside R8's legal ranges (item 15 of 93_implementation_defined.md: the model rejects the
  configuration). Safe: no block has such parameters. -/
  | illegalConfig
  deriving DecidableEq, Repr

end Sys2Proof.Machine
end

