-- ==== Sys2Proof/Machine/Flags.lean ====
section
/-! DEFINITION. The arithmetic primitives (R13, R157). The block has no flags (R33): the one carry is the wrap of an 8-bit counter,
which lives inside a command. Each primitive computes on numbers and narrows at the end. -/

namespace Sys2Proof.Machine

/-- `add8(a, b) = (a + b) mod 256` (R13). -/
def add8 (a b : Byte) : Byte := BitVec.ofNat 8 ((a.toNat + b.toNat) % 256)

/-- `carry8(a, b)`: 1 if `a + b >= 256` (R13). A counter wraps where it carries (D15). -/
def carry8 (a b : Byte) : Bool := decide (256 ≤ a.toNat + b.toNat)

/-- `satsub8(a, d) = max(0, a - d)` (R13), Nat subtraction being cut off at 0. -/
def satsub8 (a d : Byte) : Byte := BitVec.ofNat 8 (a.toNat - d.toNat)

/-- `satadd8(a, b) = min(255, a + b)` (R13). -/
def satadd8 (a b : Byte) : Byte := BitVec.ofNat 8 (min 255 (a.toNat + b.toNat))

/-- `cpl8(s) = 255 - s` (R13). -/
def cpl8 (s : Byte) : Byte := BitVec.ofNat 8 (255 - s.toNat)

/-- `shr(a, k) = floor(a / 2^k)` (R13). -/
def shr (a : Byte) (k : Nat) : Byte := BitVec.ofNat 8 (a.toNat / 2 ^ k)

/-- The larger of two bytes (COMET_COMBINE = max, R148). -/
def max8 (a b : Byte) : Byte := BitVec.ofNat 8 (max a.toNat b.toNat)

/-- `x mod n` in 0..n-1, for a negative `x` too (R13). -/
def pixelMod (x : Int) (n : Nat) : Nat := (x % (n : Int)).toNat

/-- The wrap of a 3-bit phase selector and its 8-bit counter: the counter advances by `inc`, the selector by one where it carries
(R142; the selector is mod 8). -/
def phaseAdvance (sub : BitVec 3) (st inc : Byte) : BitVec 3 × Byte :=
  (if carry8 st inc then sub + 1 else sub, add8 st inc)

end Sys2Proof.Machine
end

