-- ==== Sys2Proof/Machine/Operands.lean ====
section
/-! DEFINITION. What an operand names: a pixel cell (R60, R61, R64), a debug register (R190), a fault code (R200). -/

namespace Sys2Proof.Machine

/-- The channel numbers R = 0, G = 1, B = 2 (R11). -/
def channelIndex : Channel → Nat
  | .R => 0
  | .G => 1
  | .B => 2

/-- The linear cell address `a = 3*i + c` (R61). -/
def cellAddr (i : Nat) (c : Channel) : Nat := 3 * i + channelIndex c

/-- The channels of a pixel in storage order (R61). -/
def channelsRGB : List Channel := [.R, .G, .B]

/-- The channels of a pixel in wire order (R62, R130). -/
def channelsBGR : List Channel := [.B, .G, .R]

/-- The debug registers (R190). -/
inductive DebugReg where
  | mode
  | tcntLo
  | tcntHi
  | btnPrev
  | rbSub
  | rbStep
  | rbR
  | rbG
  | rbB
  | rpCnt
  | rpPos
  | rpCyc
  | lines
  deriving DecidableEq, Repr

/-- The register a number names; 0x0D..0xFF are reserved (R190). -/
def DebugReg.ofNum (reg : Byte) : Option DebugReg :=
  match reg.toNat with
  | 0x00 => some .mode
  | 0x01 => some .tcntLo
  | 0x02 => some .tcntHi
  | 0x03 => some .btnPrev
  | 0x04 => some .rbSub
  | 0x05 => some .rbStep
  | 0x06 => some .rbR
  | 0x07 => some .rbG
  | 0x08 => some .rbB
  | 0x09 => some .rpCnt
  | 0x0A => some .rpPos
  | 0x0B => some .rpCyc
  | 0x0C => some .lines
  | _ => none

/-- The 3-bit value of FAULT (R200). -/
def FaultCode.code : FaultCode → BitVec 3
  | .noFault => 0
  | .illegalCmd => 1
  | .badIndex => 2
  | .badReg => 3
  | .badValue => 4

/-- Channel `ch` of a colour. -/
def Colour.get (col : Colour) : Channel → Byte
  | .R => col.r
  | .G => col.g
  | .B => col.b

/-- `col[ch] <- v` (R140). -/
def Colour.set (col : Colour) (ch : Channel) (v : Byte) : Colour :=
  match ch with
  | .R => { col with r := v }
  | .G => { col with g := v }
  | .B => { col with b := v }

end Sys2Proof.Machine
end

