-- ==== Sys2Proof/Machine/Ops.lean ====
section
/-! DEFINITION. The shared operations: the pixel space's reads and writes (R65), whole-buffer passes, events and responses (R12), button
samples (R12), fault entry (R202), and what the port does around a command (R80, R220). -/

namespace Sys2Proof.Machine

/-! ## The pixel space -/

/-- What a cell that is not listed reads as: the reset value 0 (R20). -/
def Memory.background : Byte := 0

/-- The byte at a linear cell address. -/
def Memory.read : Memory → Nat → Byte
  | [], _ => Memory.background
  | (k, v) :: m, a => if a = k then v else Memory.read m a

/-- Store a byte at a linear cell address, keeping the canonical form. -/
def Memory.write : Memory → Nat → Byte → Memory
  | [], a, v => if v = Memory.background then [] else [(a, v)]
  | (k, x) :: m, a, v =>
    if a < k then
      if v = Memory.background then (k, x) :: m else (a, v) :: (k, x) :: m
    else if a = k then
      if v = Memory.background then m else (a, v) :: m
    else (k, x) :: Memory.write m a v

/-- Addresses from `lo` on, strictly rising, no listed byte equal to the background. -/
def Memory.wfFrom : Nat → Memory → Bool
  | _, [] => true
  | lo, (k, v) :: m => decide (lo ≤ k) && decide (v ≠ Memory.background) && Memory.wfFrom (k + 1) m

/-- The canonical form. -/
def Memory.wf (m : Memory) : Bool := Memory.wfFrom 0 m

/-- Every listed address is below `bound`. -/
def Memory.within (bound : Nat) (m : Memory) : Bool := m.all (fun cell => decide (cell.1 < bound))

/-- `MemRead(i, c)` (R65). -/
def memRead (m : Memory) (i : Nat) (c : Channel) : Byte := Memory.read m (cellAddr i c)

/-- `MemWrite(i, c, v)` (R65). -/
def memWrite (m : Memory) (i : Nat) (c : Channel) (v : Byte) : Memory := Memory.write m (cellAddr i c) v

/-- The cells of an `n`-pixel buffer in the order of the whole-buffer loops: pixels ascending, R, G, B within a pixel (R112). -/
def pixelCells (n : Nat) : List (Nat × Channel) :=
  (List.range n).flatMap (fun i => channelsRGB.map (fun c => (i, c)))

/-- One whole-buffer pass that rewrites each cell from its old value: `for i in 0..N-1: for c in {R, G, B}` (R112, R113, R155). -/
def updateCells (n : Nat) (f : Byte → Byte) (m : Memory) : Memory :=
  (pixelCells n).foldl (fun m p => memWrite m p.1 p.2 (f (memRead m p.1 p.2))) m

/-- `k` passes, one after the other. -/
def repeatPass (pass : Memory → Memory) : Nat → Memory → Memory
  | 0, m => m
  | k + 1, m => repeatPass pass k (pass m)

/-! ## Named updates of the state -/

/-- Replace the Pixel Buffer's contents. -/
def State.setPb (s : State) (m : Memory) : State := { s with pb := m }

/-- `MODE <- m` -/
def State.setMode (s : State) (m : Fin 6) : State := { s with mode := m }

/-- `TCNT <- t` -/
def State.setTcnt (s : State) (t : BitVec 16) : State := { s with tcnt := t }

/-- `BTNPREV <- b` -/
def State.setBtnPrev (s : State) (b : Buttons) : State := { s with btnPrev := b }

/-- Replace `RB_SUB`, `RB_STEP`, `RB_R`, `RB_G`, `RB_B`. -/
def State.setRb (s : State) (x : RainbowRegs) : State := { s with rb := x }

/-- Replace `RP_CNT`, `RP_POS`, `RP_CYC`. -/
def State.setRp (s : State) (x : RollptRegs) : State := { s with rp := x }

/-- Drive the lines to their final levels (R31). -/
def State.setLines (s : State) (l : Lines) : State := { s with lines := l }

/-- Emit events, in order (R12). -/
def State.emit (s : State) (es : List Event) : State := { s with trace := s.trace ++ es }

/-- `emit Resp(v)`: the event, and the transfer on `rsp` (R12, R80). -/
def State.respond (s : State) (v : Byte) : State := { s with rsp := some v, trace := s.trace ++ [.resp v] }

/-- `raise Fault(code)` (R12): the one thing a faulting command changes is FAULT (R202). There is no handler and no return (R207): only
reset leaves the faulted state (`State.applyReset`). -/
def State.raiseFault (s : State) (code : FaultCode) : State := { s with fault := code }

/-! ## Button samples -/

/-- What `sample Btn()` reads now: the environment's next sample, or a free value (R12; item 9 of 93_implementation_defined.md). -/
def State.nextDraw (s : State) : Buttons :=
  match s.draws with
  | b :: _ => b
  | [] => Config.freeBtn s.drawCount

/-- The sample is consumed, and recorded in the observation (R178). -/
def State.takeDraw (s : State) : State :=
  { s with
    draws := s.draws.tail
    drawCount := s.drawCount + 1
    trace := s.trace ++ [.draw s.nextDraw] }

/-- How many samples a piece of the observation holds. -/
def countDraws (es : List Event) : Nat :=
  (es.filter (fun e => match e with | .draw _ => true | _ => false)).length

/-! ## The port around a command -/

/-- The only word the sequencer issues: FRAME (R177, D33). -/
def sequencerWord : CmdWord := 0xB0000000

/-- The command word the block takes next: the sequencer's with AUTORUN = 1, else the one the host offers, if any (R80, R177). -/
def State.fetchWord (s : State) : Option CmdWord :=
  if s.cfg.autorun then some sequencerWord else s.pending.head?

/-- A command is taken. The last transfer on `rsp` is over. A host command leaves the port and signals `done` (R80, R202); as commands are
atomic (R66), `done` is set here, for a state is seen only after the whole command. The sequencer takes nothing from the port. -/
def State.accept (s : State) : State :=
  { s with
    pending := if s.cfg.autorun then s.pending else s.pending.tail
    rsp := none
    done := !s.cfg.autorun }

/-- No command is offered: the block waits, and the last transfers on `rsp` and `done` are over (R221). -/
def State.idle (s : State) : State := { s with rsp := none, done := false }

/-- `rst` = 1 (R220): every piece of the block's state takes its reset value, and `rst` falls. The parameters, the words and samples the
environment has still to give, and the events already emitted are not the block's to reset. -/
def State.applyReset (s : State) : State :=
  { State.resetOf s.cfg with
    pending := s.pending
    draws := s.draws
    drawCount := s.drawCount
    trace := s.trace }

/-- The entries the command that led from `s` to the outcome added to the observation. -/
def State.newEntries (s : State) (o : Host.Outcome State Fault Refusal) : List Event :=
  match o with
  | .next t => t.trace.drop s.trace.length
  | .fault _ => []
  | .refused _ => []

/-- The words still on the port once the command is taken. -/
def State.pendingAfter (s : State) (o : Host.Outcome State Fault Refusal) : List CmdWord :=
  match o with
  | .next t => t.pending
  | .fault _ => s.pending
  | .refused _ => s.pending

/-- `rst` rises inside a command, after `k` entries of its observation (R220; item 13 of 93_implementation_defined.md): those entries stand
and their samples are consumed, the rest are never emitted, and the state is the reset state. `o` is what the whole command would give. -/
def State.abandon (s : State) (k : Nat) (o : Host.Outcome State Fault Refusal) : State :=
  { State.resetOf s.cfg with
    pending := s.pendingAfter o
    draws := s.draws.drop (countDraws ((s.newEntries o).take k))
    drawCount := s.drawCount + countDraws ((s.newEntries o).take k)
    trace := s.trace ++ (s.newEntries o).take k }

end Sys2Proof.Machine
end

