-- ==== Sys2Proof/Machine/PixelBuffer.lean ====
section
/-! DEFINITION. The Pixel Buffer commands: PBRD, PBWR, PBFILL, PBDECAY (40_pixel_buffer.md). -/

namespace Sys2Proof.Machine

/-- PBRD: respond one cell; BAD_INDEX where `idx >= N` (R110). -/
def execPbrd (idx : Byte) (ch : Channel) (s : State) : Host.Outcome State Fault Refusal :=
  if s.cfg.n ≤ idx.toNat then .next (s.raiseFault .badIndex)
  else .next (s.respond (memRead s.pb idx.toNat ch))

/-- PBWR: write one cell; BAD_INDEX where `idx >= N`, and then nothing is written (R111). -/
def execPbwr (idx : Byte) (ch : Channel) (value : Byte) (s : State) : Host.Outcome State Fault Refusal :=
  if s.cfg.n ≤ idx.toNat then .next (s.raiseFault .badIndex)
  else .next (s.setPb (memWrite s.pb idx.toNat ch value))

/-- `do PBFILL(v)`: every cell of every pixel becomes `v` (R112). -/
def pbfill (v : Byte) (s : State) : State := s.setPb (updateCells s.cfg.n (fun _ => v) s.pb)

/-- PBFILL, which is also the Solid-Fill generator (R112). -/
def execPbfill (value : Byte) (s : State) : Host.Outcome State Fault Refusal := .next (pbfill value s)

/-- `do PBDECAY(delta)`: every cell becomes `satsub8(cell, delta)` (R113). -/
def pbdecay (delta : Byte) (s : State) : State := s.setPb (updateCells s.cfg.n (fun v => satsub8 v delta) s.pb)

/-- PBDECAY (R113). -/
def execPbdecay (delta : Byte) (s : State) : Host.Outcome State Fault Refusal := .next (pbdecay delta s)

end Sys2Proof.Machine
end

