-- ==== Sys2Proof/Machine/Generators.lean ====
section
/-! DEFINITION. The Animation Generators: RAINBOW, ROLLPT, DIM (42_generators.md). Solid-Fill is PBFILL. -/

namespace Sys2Proof.Machine

/-! ## Rainbow -/

/-- The byte a polarity makes of the step: the step, or its complement (R140). -/
def polarityValue (p : Polarity) (st : Byte) : Byte :=
  match p with
  | .up => st
  | .down => cpl8 st

/-- `applyEntry(e, s, col)` (R140): the named channels are written in order, the others keep their values. -/
def applyEntry (e : RainbowEntry) (st : Byte) (col : Colour) : Colour :=
  e.foldl (fun col p => Colour.set col p.1 (polarityValue p.2 st)) col

/-- `RAINBOW_TABLE[sub]`. A legal table has eight entries (R140), so every sub-mode finds its own. -/
def rainbowEntry (c : Config) (sub : BitVec 3) : RainbowEntry := c.rainbowTable.getD sub.toNat []

/-- The locals of the pixel pass: `col`, `ls`, `lm` (R142, R34). -/
structure RainbowCursor where
  col : Colour
  ls : Byte
  lm : BitVec 3
  deriving DecidableEq, Repr

/-- `col <- applyEntry(RAINBOW_TABLE[lm], ls, col)` (R142). -/
def cursorPaint (c : Config) (x : RainbowCursor) : RainbowCursor :=
  { x with col := applyEntry (rainbowEntry c x.lm) x.ls x.col }

/-- The local step advances, and the local sub-mode where it wraps (R142). -/
def cursorAdvance (c : Config) (x : RainbowCursor) : RainbowCursor :=
  { x with lm := (phaseAdvance x.lm x.ls c.rbPixStep).1, ls := (phaseAdvance x.lm x.ls c.rbPixStep).2 }

/-- `MemWrite(i, R, col[R]); MemWrite(i, G, col[G]); MemWrite(i, B, col[B])` (R142). -/
def writePixel (m : Memory) (i : Nat) (col : Colour) : Memory :=
  channelsRGB.foldl (fun m c => memWrite m i c (Colour.get col c)) m

/-- One pixel of the pass: apply, write, advance (R142, D12). -/
def rainbowPixel (c : Config) (acc : RainbowCursor × Memory) (i : Nat) : RainbowCursor × Memory :=
  (cursorAdvance c (cursorPaint c acc.1), writePixel acc.2 i (cursorPaint c acc.1).col)

/-- `for i in 0..N-1` of R142's pixel pass. -/
def rainbowPass (c : Config) (x : RainbowCursor) (m : Memory) : Memory :=
  ((List.range c.n).foldl (rainbowPixel c) (x, m)).2

/-- The seed update at the current global phase (R142 part 1). -/
def rainbowSeed (c : Config) (r : RainbowRegs) : Colour := applyEntry (rainbowEntry c r.sub) r.step r.seed

/-- The Rainbow state after a call (R142 parts 1 and 3). -/
def rainbowRegs (c : Config) (r : RainbowRegs) : RainbowRegs where
  sub := (phaseAdvance r.sub r.step c.rbCallStep).1
  step := (phaseAdvance r.sub r.step c.rbCallStep).2
  seed := rainbowSeed c r

/-- `do RAINBOW` (R142): the pass starts from the new seed at the old phase. -/
def rainbow (s : State) : State :=
  let start : RainbowCursor := { col := rainbowSeed s.cfg s.rb, ls := s.rb.step, lm := s.rb.sub }
  ((s.setPb (rainbowPass s.cfg start s.pb)).setRb (rainbowRegs s.cfg s.rb)).emit [.pace s.cfg.rbPaceMs]

/-- RAINBOW (R142). -/
def execRainbow (s : State) : Host.Outcome State Fault Refusal := .next (rainbow s)

/-! ## Rollpoints -/

/-- The triangle wave `high(c)` (R145). -/
def high (c : Byte) : Byte := if c.toNat ≤ 127 then c else cpl8 c

/-- `CHSET[cyc]`, in the order drawn (R146). -/
def chset (cyc : Fin 7) : List Channel :=
  match cyc with
  | 0 => [.R, .G, .B]
  | 1 => [.G, .B]
  | 2 => [.B]
  | 3 => [.R, .G]
  | 4 => [.G]
  | 5 => [.B, .R]
  | 6 => [.R]

/-- `(RP_CYC + 1) mod 7` (R147). -/
def nextCyc (cyc : Fin 7) : Fin 7 := ⟨(cyc.val + 1) % 7, Nat.mod_lt _ (by decide)⟩

/-- The weights `W` at the offsets -2, -1, 0, +1, +2 (R147, R9). -/
def cometWeights (h : Byte) : List Byte := [shr h 4, shr h 2, h, shr h 2, shr h 4]

/-- `combine(old, w)` (R148). -/
def combine (how : CometCombine) (old w : Byte) : Byte :=
  match how with
  | .assign => w
  | .satAdd => satadd8 old w
  | .maximum => max8 old w

/-- The pixel that weight `j` of a comet centred on `centre` falls on: `(centre + j - 2) mod N` (R147). -/
def cometPixel (n centre j : Nat) : Nat := pixelMod ((centre : Int) + (j : Int) - 2) n

/-- One weight of a comet on one pixel: `for ch in CHSET: MemWrite(i, ch, combine(MemRead(i, ch), w))` (R147). -/
def drawWeight (how : CometCombine) (chans : List Channel) (i : Nat) (w : Byte) (m : Memory) : Memory :=
  chans.foldl (fun m ch => memWrite m i ch (combine how (memRead m i ch) w)) m

/-- One comet: `for j in 0..4` (R147). -/
def drawComet (c : Config) (chans : List Channel) (weights : List Byte) (centre : Nat) (m : Memory) : Memory :=
  weights.zipIdx.foldl (fun m wj => drawWeight c.cometCombine chans (cometPixel c.n centre wj.2) wj.1 m) m

/-- The two centres, in drawing order: `RP_POS` and `(RP_POS + RP_OFFSET) mod N` (R147, D18). -/
def cometCentres (c : Config) (pos : Byte) : List Nat := [pos.toNat, (pos.toNat + c.rpOffset) % c.n]

/-- The Rollpoints state after a call: the counter, the cycle where it wraps, the position (R147 steps 2 and 5). -/
def rollptRegs (c : Config) (r : RollptRegs) : RollptRegs where
  cnt := add8 r.cnt c.rpStep
  pos := BitVec.ofNat 8 ((r.pos.toNat + 1) % c.n)
  cyc := if carry8 r.cnt c.rpStep then nextCyc r.cyc else r.cyc

/-- Step 4 of R147: both comets, drawn with the new counter's profile and the new cycle's channels at the old position. -/
def drawComets (c : Config) (old new : RollptRegs) (m : Memory) : Memory :=
  (cometCentres c old.pos).foldl (fun m centre => drawComet c (chset new.cyc) (cometWeights (high new.cnt)) centre m) m

/-- `do ROLLPT` (R147): fade, advance, draw, move, pace. -/
def rollpt (s : State) : State :=
  let faded := pbdecay s.cfg.rpDecay s
  let regs := rollptRegs s.cfg s.rp
  ((faded.setPb (drawComets s.cfg s.rp regs faded.pb)).setRp regs).emit [.pace s.cfg.rpPaceMs]

/-- ROLLPT (R147). -/
def execRollpt (s : State) : Host.Outcome State Fault Refusal := .next (rollpt s)

/-! ## Brightness-Halve -/

/-- One pass of a one-bit right shift over the whole buffer (R155). -/
def dimPass (n : Nat) (m : Memory) : Memory := updateCells n (fun v => shr v 1) m

/-- `do DIM(k)`: `k` passes (R155). -/
def dim (k : Byte) (s : State) : State := s.setPb (repeatPass (dimPass s.cfg.n) k.toNat s.pb)

/-- DIM (R155). -/
def execDim (k : Byte) (s : State) : Host.Outcome State Fault Refusal := .next (dim k s)

end Sys2Proof.Machine
end

