-- ==== Sys2Proof/Machine/Transmitter.lean ====
section
/-! DEFINITION. The Serial Transmitter: TXFRAME (41_transmitter.md). -/

namespace Sys2Proof.Machine

/-- The bits of a byte, most significant first: `for j in 7 downto 0: v[j]` (R130, R17). -/
def byteBits (v : Byte) : List Bool := [7, 6, 5, 4, 3, 2, 1, 0].map (fun j => v.getLsbD j)

/-- The bits of the whole buffer in sending order: pixels ascending, B then G then R, MSB first (R130, R62). -/
def txBits (n : Nat) (m : Memory) : List Bool :=
  (List.range n).flatMap (fun i => channelsBGR.flatMap (fun c => byteBits (memRead m i c)))

/-- One bit on the lines: `SDATA <- b`, `SCLK <- 1`, `SCLK <- 0`, each drive an event (R130). -/
def driveBit (b : Bool) (l : Lines) : Lines × List Event :=
  let l1 := { l with sdata := b }
  let l2 := { l1 with sclk := true }
  let l3 := { l2 with sclk := false }
  (l3, [.data l1.sdata, .clk l2.sclk, .clk l3.sclk])

/-- Bits one after the other (R130): the final levels and all the line events. -/
def sendBits : List Bool → Lines → Lines × List Event
  | [], l => (l, [])
  | b :: bs, l =>
    let first := driveBit b l
    let rest := sendBits bs first.1
    (rest.1, first.2 ++ rest.2)

/-- `do TXFRAME`: send the whole buffer, then the settle Pace (R130). The buffer is read in place and not changed (R21). -/
def txframe (s : State) : State :=
  let sent := sendBits (txBits s.cfg.n s.pb) s.lines
  (s.setLines sent.1).emit (sent.2 ++ [.pace s.cfg.txSettleMs])

/-- TXFRAME (R130). -/
def execTxframe (s : State) : Host.Outcome State Fault Refusal := .next (txframe s)

end Sys2Proof.Machine
end

