-- ==== Sys2Proof/Machine/Sequencer.lean ====
section
/-! DEFINITION. The Mode Sequencer and the main-loop iteration: BTNPOLL, RENDER, FRAME (43_sequencer.md). -/

namespace Sys2Proof.Machine

/-- `(MODE = 5) ? 0 : MODE + 1` (R170). -/
def nextMode (m : Fin 6) : Fin 6 := if h : m.val + 1 < 6 then ⟨m.val + 1, h⟩ else 0

/-- The rising edges: bits set in the sample and clear in the previous one (R171, R16). -/
def risingEdges (sample previous : Buttons) : Buttons := sample &&& ~~~previous

/-- After a rising edge: the debounce Pace, the second sample, and the advance if it is nonzero (R171). -/
def debounce (s : State) : State :=
  let waited := s.emit [.pace s.cfg.debounceMs]
  if waited.nextDraw ≠ 0 then waited.takeDraw.setMode (nextMode s.mode) else waited.takeDraw

/-- `do BTNPOLL` (R171). BTNPREV takes the first sample, never the second. -/
def btnpoll (s : State) : State :=
  let sampled := s.takeDraw.setBtnPrev s.nextDraw
  if risingEdges s.nextDraw s.btnPrev ≠ 0 then debounce sampled else sampled

/-- BTNPOLL (R171). -/
def execBtnpoll (s : State) : Host.Outcome State Fault Refusal := .next (btnpoll s)

/-- The rotation of modes 0 and 1: Rollpoints while `TCNT < T_ROLL`, else Rainbow (R173). -/
def rotation (s : State) : State := if s.tcnt.toNat < s.cfg.tRoll then rollpt s else rainbow s

/-- The `case MODE of` of R173. -/
def renderMode (s : State) : State :=
  match s.mode with
  | 0 => rotation s
  | 1 => dim s.cfg.dimKMode1 (rotation s)
  | 2 => pbfill s.cfg.solidLevel2 s
  | 3 => pbfill s.cfg.solidLevel3 s
  | 4 => pbfill s.cfg.solidLevel4 s
  | 5 => pbfill s.cfg.solidLevel5 s

/-- `TCNT <- TCNT + 1; if TCNT = T_PERIOD: TCNT <- 0` (R173). -/
def nextTcnt (c : Config) (t : BitVec 16) : BitVec 16 := if (t + 1).toNat = c.tPeriod then 0 else t + 1

/-- `do RENDER`: the generator of the mode, then the frame time counter (R173, D19). -/
def render (s : State) : State := (renderMode s).setTcnt (nextTcnt s.cfg s.tcnt)

/-- RENDER (R173). -/
def execRender (s : State) : Host.Outcome State Fault Refusal := .next (render s)

/-- `do FRAME`: render, transmit, poll (R175). -/
def frame (s : State) : State := btnpoll (txframe (render s))

/-- FRAME, one iteration of the main loop (R175). -/
def execFrame (s : State) : Host.Outcome State Fault Refusal := .next (frame s)

end Sys2Proof.Machine
end

