-- ==== Sys2Proof/Machine/System.lean ====
section
/-! DEFINITION. NOP and the debug register access CSRRD, CSRWR (44_system.md). -/

namespace Sys2Proof.Machine

/-- NOP: no effect (R193). -/
def execNop (s : State) : Host.Outcome State Fault Refusal := .next s

/-- The value of a debug register, unused high bits 0 (R190, R191). -/
def readDebug (s : State) : DebugReg → Byte
  | .mode => BitVec.ofNat 8 s.mode.val
  | .tcntLo => s.tcnt.extractLsb' 0 8
  | .tcntHi => s.tcnt.extractLsb' 8 8
  | .btnPrev => s.btnPrev.setWidth 8
  | .rbSub => s.rb.sub.setWidth 8
  | .rbStep => s.rb.step
  | .rbR => s.rb.seed.r
  | .rbG => s.rb.seed.g
  | .rbB => s.rb.seed.b
  | .rpCnt => s.rp.cnt
  | .rpPos => s.rp.pos
  | .rpCyc => BitVec.ofNat 8 s.rp.cyc.val
  | .lines => BitVec.ofNat 8 (s.lines.sclk.toNat + 2 * s.lines.sdata.toNat)

/-- `if t >= T_PERIOD: raise Fault(BAD_VALUE); TCNT <- t` (R192). -/
def writeTcnt (s : State) (t : BitVec 16) : State :=
  if s.cfg.tPeriod ≤ t.toNat then s.raiseFault .badValue else s.setTcnt t

/-- Write a debug register, or fault and write nothing (R192). -/
def writeDebug (s : State) (v : Byte) : DebugReg → State
  | .mode => if h : v.toNat < 6 then s.setMode ⟨v.toNat, h⟩ else s.raiseFault .badValue
  | .tcntLo => writeTcnt s (s.tcnt.extractLsb' 8 8 ++ v)
  | .tcntHi => writeTcnt s (v ++ s.tcnt.extractLsb' 0 8)
  | .btnPrev => if 3 < v.toNat then s.raiseFault .badValue else s.setBtnPrev (v.setWidth 2)
  | .rbSub => if 7 < v.toNat then s.raiseFault .badValue else s.setRb { s.rb with sub := v.setWidth 3 }
  | .rbStep => s.setRb { s.rb with step := v }
  | .rbR => s.setRb { s.rb with seed := { s.rb.seed with r := v } }
  | .rbG => s.setRb { s.rb with seed := { s.rb.seed with g := v } }
  | .rbB => s.setRb { s.rb with seed := { s.rb.seed with b := v } }
  | .rpCnt => s.setRp { s.rp with cnt := v }
  | .rpPos => if s.cfg.n ≤ v.toNat then s.raiseFault .badValue else s.setRp { s.rp with pos := v }
  | .rpCyc => if h : v.toNat < 7 then s.setRp { s.rp with cyc := ⟨v.toNat, h⟩ } else s.raiseFault .badValue
  | .lines => s.raiseFault .badReg

/-- CSRRD: respond a debug register; BAD_REG above 0x0C (R191). -/
def execCsrrd (reg : Byte) (s : State) : Host.Outcome State Fault Refusal :=
  match DebugReg.ofNum reg with
  | some r => .next (s.respond (readDebug s r))
  | none => .next (s.raiseFault .badReg)

/-- CSRWR: write a debug register; BAD_REG from 0x0C on, LINES being read-only, and BAD_VALUE outside the legal set (R192). -/
def execCsrwr (reg : Byte) (value : Byte) (s : State) : Host.Outcome State Fault Refusal :=
  match DebugReg.ofNum reg with
  | some r => .next (writeDebug s value r)
  | none => .next (s.raiseFault .badReg)

end Sys2Proof.Machine
end

