-- ==== Sys2Proof/Machine/Dispatch.lean ====
section
/-! DEFINITION. The meaning of every command, one arm each (R87). -/

namespace Sys2Proof.Machine

-- One arm for each row of spec/opcode_table.json, in its order.
def exec (i : Instr) (s : State) : Host.Outcome State Fault Refusal :=
  match i with
  | .nop => Sys2Proof.Machine.execNop s
  | .pbrd idx ch => Sys2Proof.Machine.execPbrd idx ch s
  | .pbwr idx ch value => Sys2Proof.Machine.execPbwr idx ch value s
  | .pbfill value => Sys2Proof.Machine.execPbfill value s
  | .pbdecay delta => Sys2Proof.Machine.execPbdecay delta s
  | .dim k => Sys2Proof.Machine.execDim k s
  | .rainbow => Sys2Proof.Machine.execRainbow s
  | .rollpt => Sys2Proof.Machine.execRollpt s
  | .txframe => Sys2Proof.Machine.execTxframe s
  | .btnpoll => Sys2Proof.Machine.execBtnpoll s
  | .render => Sys2Proof.Machine.execRender s
  | .frame => Sys2Proof.Machine.execFrame s
  | .csrrd reg => Sys2Proof.Machine.execCsrrd reg s
  | .csrwr reg value => Sys2Proof.Machine.execCsrwr reg value s

end Sys2Proof.Machine
end

