-- ==== Sys2Proof/Machine/Step.lean ====
section
/-! DEFINITION. One step of the block: a reset, a wait, or one atomic command (R66, R177, R203, R220). -/

namespace Sys2Proof.Machine

/-- The word is decoded and its command executed; a word that decodes to none raises ILLEGAL_CMD (R90, R202, R204). -/
def State.runWord (s : State) (w : CmdWord) : Host.Outcome State Fault Refusal :=
  match decode w with
  | .ok i => exec i s.accept
  | .error _ => .next (s.accept.raiseFault .illegalCmd)

/-- What the block does with `rst` low: nothing more while FAULT ≠ 0 (R203), else the next command, or a wait where the host offers
none (R221). -/
def State.proceed (s : State) : Host.Outcome State Fault Refusal :=
  if s.fault ≠ .noFault then .fault (.halted s.fault)
  else
    match s.fetchWord with
    | some w => s.runWord w
    | none => .next s.idle

/-- One step. A configuration outside R8 is rejected (item 15 of 93_implementation_defined.md); then `rst` rules (R220): where it rises inside
a command, the command is the one that would run with `rst` low. -/
def step (s : State) : Host.Outcome State Fault Refusal :=
  if s.cfg.legal then
    match s.rst with
    | .low => s.proceed
    | .high => .next s.applyReset
    | .rises k => .next (s.abandon k { s with rst := .low }.proceed)
  else .refused .illegalConfig

/-- `s` with the host port open (AUTORUN = 0, FAULT = 0, `rst` = 0) and the word offered first, so that the next step takes exactly it. -/
def State.withFetchWord (s : State) (nbits w : Nat) : State :=
  { s with
    cfg := { s.cfg with autorun := false }
    fault := .noFault
    rst := .low
    pending := tableWord nbits w :: s.pending }

end Sys2Proof.Machine
end

