-- ==== Sys2Proof/Machine/Assembler.lean ====
section
/-! DEFINITION. The assembler: source text to lines (R92), pseudo-instructions to commands (R93), commands to words (R88). Text is a list of
characters. It has no effect on what a command does (D35). -/

namespace Sys2Proof.Machine

/-! ## From lines to words -/

/-- A number that fits its field, as the field's byte. -/
def asField (x : Nat) : Byte := BitVec.ofNat 8 x

/-- The commands a line stands for: itself, or its expansion (R93). -/
def expandLine (c : Config) : AsmLine → List Instr
  | .nop => [.nop]
  | .pbrd idx ch => [.pbrd (asField idx) ch]
  | .pbwr idx ch value => [.pbwr (asField idx) ch (asField value)]
  | .pbfill value => [.pbfill (asField value)]
  | .pbdecay delta => [.pbdecay (asField delta)]
  | .dim k => [.dim (asField k)]
  | .rainbow => [.rainbow]
  | .rollpt => [.rollpt]
  | .txframe => [.txframe]
  | .btnpoll => [.btnpoll]
  | .render => [.render]
  | .frame => [.frame]
  | .csrrd reg => [.csrrd (asField reg)]
  | .csrwr reg value => [.csrwr (asField reg) (asField value)]
  | .solid v => [.pbfill (asField v)]
  | .clear => [.pbfill 0]
  | .halve => [.dim 1]
  | .fade => [.pbdecay c.rpDecay]
  | .setpix i r g b =>
    [.pbwr (asField i) .R (asField r), .pbwr (asField i) .G (asField g), .pbwr (asField i) .B (asField b)]
  | .setmode m => [.csrwr 0x00 (asField m)]

/-- The commands of a line; none is an assembly error, an operand out of its field's range (R92). -/
def commandsOf (c : Config) (l : AsmLine) : Option (List Instr) :=
  if AsmLine.wellFormed l then some (expandLine c l) else none

/-! ## From text to lines -/

/-- What separates a mnemonic from its operands, and may stand around an operand. -/
def isBlank (ch : Char) : Bool := ch = ' ' || ch = '\t'

/-- The text of a line before its comment, which starts at `;` (R92). -/
def dropComment (text : List Char) : List Char := text.takeWhile (fun ch => ch ≠ ';')

/-- The text without the blanks at its two ends. -/
def trimBlanks (text : List Char) : List Char := ((text.dropWhile isBlank).reverse.dropWhile isBlank).reverse

/-- The pieces between commas. -/
def splitCommas : List Char → List (List Char)
  | [] => [[]]
  | ch :: text =>
    if ch = ',' then [] :: splitCommas text
    else
      match splitCommas text with
      | piece :: pieces => (ch :: piece) :: pieces
      | [] => [[ch]]

/-- The value of a digit below `base`, 10 or 16. -/
def digitValue (base : Nat) (ch : Char) : Option Nat :=
  let d :=
    if '0'.toNat ≤ ch.toNat ∧ ch.toNat ≤ '9'.toNat then ch.toNat - '0'.toNat
    else if 'A'.toNat ≤ ch.toNat ∧ ch.toNat ≤ 'F'.toNat then ch.toNat - 'A'.toNat + 10
    else if 'a'.toNat ≤ ch.toNat ∧ ch.toNat ≤ 'f'.toNat then ch.toNat - 'a'.toNat + 10
    else base
  if d < base then some d else none

/-- Digits read from the left, after the value `acc`. -/
def digitsValue (base : Nat) : Nat → List Char → Option Nat
  | acc, [] => some acc
  | acc, ch :: text =>
    match digitValue base ch with
    | some d => digitsValue base (acc * base + d) text
    | none => none

/-- A number: decimal, or `0x` and hexadecimal (R92). -/
def parseNumber : List Char → Option Nat
  | [] => none
  | '0' :: 'x' :: ch :: text => digitsValue 16 0 (ch :: text)
  | ch :: text => digitsValue 10 0 (ch :: text)

/-- A channel: `R`, `G` or `B`; anything else is an assembly error (R92). -/
def parseChannel (text : List Char) : Option Channel :=
  if text = ['R'] then some .R
  else if text = ['G'] then some .G
  else if text = ['B'] then some .B
  else none

/-- The register names of R190 with their numbers. -/
def registerNames : List (List Char × Nat) :=
  [ (['M', 'O', 'D', 'E'], 0x00),
    (['T', 'C', 'N', 'T', '_', 'L', 'O'], 0x01),
    (['T', 'C', 'N', 'T', '_', 'H', 'I'], 0x02),
    (['B', 'T', 'N', 'P', 'R', 'E', 'V'], 0x03),
    (['R', 'B', '_', 'S', 'U', 'B'], 0x04),
    (['R', 'B', '_', 'S', 'T', 'E', 'P'], 0x05),
    (['R', 'B', '_', 'R'], 0x06),
    (['R', 'B', '_', 'G'], 0x07),
    (['R', 'B', '_', 'B'], 0x08),
    (['R', 'P', '_', 'C', 'N', 'T'], 0x09),
    (['R', 'P', '_', 'P', 'O', 'S'], 0x0A),
    (['R', 'P', '_', 'C', 'Y', 'C'], 0x0B),
    (['L', 'I', 'N', 'E', 'S'], 0x0C) ]

/-- A register: its name of R190, or its number (R92). -/
def parseRegister (text : List Char) : Option Nat :=
  match registerNames.lookup text with
  | some r => some r
  | none => parseNumber text

/-- The mnemonics of R92 and R93, upper case. -/
inductive AsmWord where
  | nop
  | pbrd
  | pbwr
  | pbfill
  | pbdecay
  | dim
  | rainbow
  | rollpt
  | txframe
  | btnpoll
  | render
  | frame
  | csrrd
  | csrwr
  | solid
  | clear
  | halve
  | fade
  | setpix
  | setmode
  deriving DecidableEq, Repr

/-- The spelling of each mnemonic (R92, R93). -/
def mnemonicNames : List (List Char × AsmWord) :=
  [ (['N', 'O', 'P'], .nop),
    (['P', 'B', 'R', 'D'], .pbrd),
    (['P', 'B', 'W', 'R'], .pbwr),
    (['P', 'B', 'F', 'I', 'L', 'L'], .pbfill),
    (['P', 'B', 'D', 'E', 'C', 'A', 'Y'], .pbdecay),
    (['D', 'I', 'M'], .dim),
    (['R', 'A', 'I', 'N', 'B', 'O', 'W'], .rainbow),
    (['R', 'O', 'L', 'L', 'P', 'T'], .rollpt),
    (['T', 'X', 'F', 'R', 'A', 'M', 'E'], .txframe),
    (['B', 'T', 'N', 'P', 'O', 'L', 'L'], .btnpoll) ]
  ++
  [ (['R', 'E', 'N', 'D', 'E', 'R'], .render),
    (['F', 'R', 'A', 'M', 'E'], .frame),
    (['C', 'S', 'R', 'R', 'D'], .csrrd),
    (['C', 'S', 'R', 'W', 'R'], .csrwr),
    (['S', 'O', 'L', 'I', 'D'], .solid),
    (['C', 'L', 'E', 'A', 'R'], .clear),
    (['H', 'A', 'L', 'V', 'E'], .halve),
    (['F', 'A', 'D', 'E'], .fade),
    (['S', 'E', 'T', 'P', 'I', 'X'], .setpix),
    (['S', 'E', 'T', 'M', 'O', 'D', 'E'], .setmode) ]

/-- A line with one number operand. -/
def oneNumber (line : Nat → AsmLine) : List (List Char) → Option AsmLine
  | [a] => (parseNumber a).map line
  | _ => none

/-- The operands of a mnemonic, in the forms of R92 and R93; any other shape is an assembly error. -/
def parseOperands (w : AsmWord) (ops : List (List Char)) : Option AsmLine :=
  match w with
  | .nop => if ops = [] then some .nop else none
  | .rainbow => if ops = [] then some .rainbow else none
  | .rollpt => if ops = [] then some .rollpt else none
  | .txframe => if ops = [] then some .txframe else none
  | .btnpoll => if ops = [] then some .btnpoll else none
  | .render => if ops = [] then some .render else none
  | .frame => if ops = [] then some .frame else none
  | .clear => if ops = [] then some .clear else none
  | .halve => if ops = [] then some .halve else none
  | .fade => if ops = [] then some .fade else none
  | .pbfill => oneNumber .pbfill ops
  | .pbdecay => oneNumber .pbdecay ops
  | .dim => oneNumber .dim ops
  | .solid => oneNumber .solid ops
  | .setmode => oneNumber .setmode ops
  | .pbrd =>
    match ops with
    | [i, c] => do return .pbrd (← parseNumber i) (← parseChannel c)
    | _ => none
  | .pbwr =>
    match ops with
    | [i, c, v] => do return .pbwr (← parseNumber i) (← parseChannel c) (← parseNumber v)
    | _ => none
  | .csrrd =>
    match ops with
    | [r] => (parseRegister r).map .csrrd
    | _ => none
  | .csrwr =>
    match ops with
    | [r, v] => do return .csrwr (← parseRegister r) (← parseNumber v)
    | _ => none
  | .setpix =>
    match ops with
    | [i, r, g, b] => do return .setpix (← parseNumber i) (← parseNumber r) (← parseNumber g) (← parseNumber b)
    | _ => none

/-- The operand texts after the mnemonic: separated by commas, none at all where only blanks follow. -/
def operandTexts (text : List Char) : List (List Char) :=
  if (trimBlanks text).isEmpty then [] else (splitCommas text).map trimBlanks

/-- The line a text stands for; `some none` is a line that holds no command, `none` an assembly error (R92). -/
def parseLine (text : List Char) : Option (Option AsmLine) :=
  let body := trimBlanks (dropComment text)
  if body.isEmpty then some none
  else
    match mnemonicNames.lookup (body.takeWhile (fun ch => !isBlank ch)) with
    | some w => (parseOperands w (operandTexts (body.dropWhile (fun ch => !isBlank ch)))).map some
    | none => none

/-- The words of one line of source (R92, R93). -/
def assembleLine (c : Config) (text : List Char) : Option (List CmdWord) :=
  match parseLine text with
  | none => none
  | some none => some []
  | some (some l) => (commandsOf c l).map (fun is => is.map encode)

/-- The words of a program, one command per line (R92); none where a line is in error. -/
def assembleProgram (c : Config) : List (List Char) → Option (List CmdWord)
  | [] => some []
  | text :: rest =>
    match assembleLine c text, assembleProgram c rest with
    | some ws, some more => some (ws ++ more)
    | _, _ => none

end Sys2Proof.Machine
end

