-- ==== Sys2Proof/Machine/Ports.lean ====
section
/-! DEFINITION. The block's ports as functions of its state (R80). -/

namespace Sys2Proof.Machine

/-- `autorun`: the strap equals the parameter. -/
def State.autorunPort (s : State) : Bool := s.cfg.autorun

/-- `sclk`: the value of SCLK. -/
def State.sclkPort (s : State) : Bool := s.lines.sclk

/-- `sdata`: the value of SDATA. -/
def State.sdataPort (s : State) : Bool := s.lines.sdata

/-- `cmd` where `cmd_valid` is 1. -/
def State.cmdPort (s : State) : Option CmdWord := s.pending.head?

/-- `cmd_valid`: the host offers a word. -/
def State.cmdValid (s : State) : Bool := !s.pending.isEmpty

/-- `cmd_ready`: 1 iff AUTORUN = 0, FAULT = 0 and no command is executing; at a command boundary none is (R35). -/
def State.cmdReady (s : State) : Bool := !s.cfg.autorun && decide (s.fault = .noFault)

/-- `rsp_valid`. -/
def State.rspValid (s : State) : Bool := s.rsp.isSome

/-- `fault[2:0]`: the value of FAULT. -/
def State.faultPort (s : State) : BitVec 3 := FaultCode.code s.fault

/-- The emitted events of a piece of the observation, the draws left out (R12, R178). -/
def emittedEvents (es : List Event) : List Event :=
  es.filter (fun e => match e with | .draw _ => false | _ => true)

/-- What a receiver samples: the level of the data line at each Clk(1), from the level `d` on (R132). -/
def sampledBits : Bool → List Event → List Bool
  | _, [] => []
  | _, .data b :: es => sampledBits b es
  | d, .clk true :: es => d :: sampledBits d es
  | d, .clk false :: es => sampledBits d es
  | d, .pace _ :: es => sampledBits d es
  | d, .resp _ :: es => sampledBits d es
  | d, .draw _ :: es => sampledBits d es

/-- The durations of the Pace events, in order (R229). -/
def paces : List Event → List Nat
  | [] => []
  | .pace ms :: es => ms :: paces es
  | .data _ :: es => paces es
  | .clk _ :: es => paces es
  | .resp _ :: es => paces es
  | .draw _ :: es => paces es

/-- The responses, in order (R12). -/
def responses : List Event → List Byte
  | [] => []
  | .resp v :: es => v :: responses es
  | .data _ :: es => responses es
  | .clk _ :: es => responses es
  | .pace _ :: es => responses es
  | .draw _ :: es => responses es

end Sys2Proof.Machine
end

