-- ==== Sys2Proof/Safety.lean ====
section
/-! DEFINITION. What counts as a safe state and a safe run: the legal values of R36 with the canonical buffer, and FAULT = 0 throughout
(R203). -/

namespace Sys2Proof.Machine

/-- What holds at every command boundary: legal parameters (R8), TCNT < T_PERIOD (R25), RP_POS < N (R28), SCLK = 0 (R133), the buffer in its
canonical form with no cell beyond 3N (R20, R64). MODE ≤ 5 and RP_CYC ≤ 6 hold by their types (R23, R28). -/
abbrev State.Inv (s : State) : Prop :=
  s.cfg.legal = true ∧ s.tcnt.toNat < s.cfg.tPeriod ∧ s.rp.pos.toNat < s.cfg.n ∧ s.lines.sclk = false ∧
    Memory.wf s.pb = true ∧ Memory.within (3 * s.cfg.n) s.pb = true

/-- `rst` is low, FAULT = 0 and the parameters are legal: the block runs commands (R177, R203). -/
abbrev State.Ready (s : State) : Prop := s.cfg.legal = true ∧ s.rst = .low ∧ s.fault = .noFault

/-- AUTORUN = 0, the block is ready, and the host offers `w`, with `rest` to come after it (R80). -/
abbrev State.Offers (s : State) (w : CmdWord) (rest : List CmdWord) : Prop :=
  s.Ready ∧ s.cfg.autorun = false ∧ s.pending = w :: rest

/-- `k` steps from `s` all answer a next state with FAULT = 0: the premise of every claim about a program (R203). -/
def State.SafeFor : Nat → State → Prop
  | 0, s => s.fault = .noFault
  | k + 1, s => s.fault = .noFault ∧ ∃ t, step s = .next t ∧ t.SafeFor k

end Sys2Proof.Machine
end

