-- ==== Sys2Proof/Certificates/Slice0/Obligations.lean ====
section
/-! DEFINITION. The statements for the provers, and the few words they are written in. -/

open Sys2Proof Sys2Proof.Machine

/-! ## Words of the statements -/

/-- The encoding part of a command's rule. Of the words with opcode `op`: a bad one, offered by the host, raises ILLEGAL_CMD, with nothing
else changed but the transfer signals (R90, R202); every other decodes to the command `good` tells. -/
def Claims.Encoded (op : BitVec 4) (bad : CmdWord → Prop) (good : CmdWord → Instr → Prop) : Prop :=
  ∀ w : CmdWord, w.extractLsb' 28 4 = op →
    (bad w → ∀ s rest, State.Offers s w rest →
      step s = .next { s with pending := rest, rsp := none, done := true, fault := .illegalCmd }) ∧
    (¬ bad w → ∃ i, decode w = .ok i ∧ good w i)

/-- The encoding part of a format Z command (R82): every bit of `cmd[27:0]` must be 0. -/
def Claims.EncodedZ (op : BitVec 4) (i : Instr) : Prop :=
  Claims.Encoded op (fun w => w.extractLsb' 0 28 ≠ 0) (fun _ j => j = i)

/-- The encoding part of a format I command (R83): every bit of `cmd[27:8]` must be 0. -/
def Claims.EncodedI (op : BitVec 4) (mk : Byte → Instr) : Prop :=
  Claims.Encoded op (fun w => w.extractLsb' 8 20 ≠ 0) (fun w j => j = mk (w.extractLsb' 0 8))

/-- The reserved-field column of R201, by opcode, with `ch = 3`: the words that decode to no command (R90). -/
def Claims.illegalWord (w : CmdWord) : Prop :=
  match (w.extractLsb' 28 4).toNat with
  | 0x0 | 0x6 | 0x7 | 0x8 | 0x9 | 0xA | 0xB => w.extractLsb' 0 28 ≠ 0
  | 0x3 | 0x4 | 0x5 => w.extractLsb' 8 20 ≠ 0
  | 0x1 => w.extractLsb' 26 2 ≠ 0 ∨ w.extractLsb' 0 16 ≠ 0 ∨ w.extractLsb' 24 2 = 3
  | 0x2 => w.extractLsb' 26 2 ≠ 0 ∨ w.extractLsb' 8 8 ≠ 0 ∨ w.extractLsb' 24 2 = 3
  | 0xC => w.extractLsb' 24 4 ≠ 0 ∨ w.extractLsb' 0 16 ≠ 0
  | 0xD => w.extractLsb' 24 4 ≠ 0 ∨ w.extractLsb' 8 8 ≠ 0
  | _ => True

/-- `k` executions of one command, one after the other. -/
def Claims.execTimes (i : Instr) : Nat → State → Host.Outcome State Fault Refusal
  | 0, s => .next s
  | k + 1, s =>
    match exec i s with
    | .next t => Claims.execTimes i k t
    | .fault f => .fault f
    | .refused r => .refused r

/-- Commands one after the other. -/
def Claims.execAll : List Instr → State → Host.Outcome State Fault Refusal
  | [], s => .next s
  | i :: is, s =>
    match exec i s with
    | .next t => Claims.execAll is t
    | .fault f => .fault f
    | .refused r => .refused r

/-- The 11-bit Rainbow phase `{RB_SUB, RB_STEP}` as a number (R143). -/
def Claims.phase (r : RainbowRegs) : Nat := 256 * r.sub.toNat + r.step.toNat

/-- The phase of pixel `i`: the global phase after `i` advances of RB_PIX_STEP, modulo 2048 (R143). -/
def Claims.pixelPhase (c : Config) (r : RainbowRegs) (i : Nat) : Nat :=
  (Claims.phase r + i * c.rbPixStep.toNat) % 2048

/-- The colour the entry of a phase gives: `applyEntry(RAINBOW_TABLE[phase / 256], phase mod 256, col)` (R140). -/
def Claims.paint (c : Config) (phase : Nat) (col : Colour) : Colour :=
  applyEntry (c.rainbowTable.getD (phase / 256) []) (BitVec.ofNat 8 (phase % 256)) col

/-- The colour of pixel `i` of a Rainbow call that starts from the colour `col` (R142, R143). -/
def Claims.pixelColour (c : Config) (r : RainbowRegs) (col : Colour) : Nat → Colour
  | 0 => Claims.paint c (Claims.pixelPhase c r 0) col
  | i + 1 => Claims.paint c (Claims.pixelPhase c r (i + 1)) (Claims.pixelColour c r col i)

/-- The weights of a Rollpoints call that fall on pixel `i`, in drawing order: the comet at `pos`, then the one RP_OFFSET further; in each the
weights `h >> 4, h >> 2, h, h >> 2, h >> 4` at `(centre + j - 2) mod N` (R147). -/
def Claims.hits (c : Config) (pos : Nat) (h : Byte) (i : Nat) : List Byte :=
  [pos, (pos + c.rpOffset) % c.n].flatMap (fun (centre : Nat) =>
    [(0, shr h 4), (1, shr h 2), (2, h), (3, shr h 2), (4, shr h 4)].filterMap (fun (jw : Nat × Byte) =>
      if ((centre : Int) + (jw.1 : Int) - 2) % (c.n : Int) = (i : Int) then some jw.2 else none))

/-- The bits of a byte, bit 7 first (R17). -/
def Claims.msbFirst (v : Byte) : List Bool :=
  [v.getLsbD 7, v.getLsbD 6, v.getLsbD 5, v.getLsbD 4, v.getLsbD 3, v.getLsbD 2, v.getLsbD 1, v.getLsbD 0]

/-- The stream of R132: over the pixels ascending, `PB[i][B]`, `PB[i][G]`, `PB[i][R]`, each MSB first. -/
def Claims.stream (n : Nat) (m : Memory) : List Bool :=
  (List.range n).flatMap (fun i =>
    Claims.msbFirst (memRead m i .B) ++ Claims.msbFirst (memRead m i .G) ++ Claims.msbFirst (memRead m i .R))

/-- The line events of a stream: for each bit Data, Clk(1), Clk(0) (R131). -/
def Claims.lineEvents (bits : List Bool) : List Event :=
  bits.flatMap (fun b => [.data b, .clk true, .clk false])

/-- The second sample of a BTNPOLL that starts in `s`: the one after the next (R171). -/
def Claims.secondDraw (s : State) : Buttons :=
  { s with draws := s.draws.tail, drawCount := s.drawCount + 1 }.nextDraw

/-- The byte CSRRD responds for a register number (R190, R191). -/
def Claims.registerByte (s : State) (reg : Nat) : Nat :=
  match reg with
  | 0x00 => s.mode.val
  | 0x01 => s.tcnt.toNat % 256
  | 0x02 => s.tcnt.toNat / 256
  | 0x03 => s.btnPrev.toNat
  | 0x04 => s.rb.sub.toNat
  | 0x05 => s.rb.step.toNat
  | 0x06 => s.rb.seed.r.toNat
  | 0x07 => s.rb.seed.g.toNat
  | 0x08 => s.rb.seed.b.toNat
  | 0x09 => s.rp.cnt.toNat
  | 0x0A => s.rp.pos.toNat
  | 0x0B => s.rp.cyc.val
  | _ => s.lines.sclk.toNat + 2 * s.lines.sdata.toNat

/-- The values CSRWR refuses for a register number below 0x0C (R190, R192). -/
def Claims.badValue (s : State) (reg v : Nat) : Prop :=
  match reg with
  | 0x00 => 5 < v
  | 0x01 => s.cfg.tPeriod ≤ 256 * (s.tcnt.toNat / 256) + v
  | 0x02 => s.cfg.tPeriod ≤ 256 * v + s.tcnt.toNat % 256
  | 0x03 => 3 < v
  | 0x04 => 7 < v
  | 0x0A => s.cfg.n ≤ v
  | 0x0B => 6 < v
  | _ => False

/-- A button held through many polls, or pressed again and again: the samples of presses that each start from a release and are confirmed
(R172). -/
def Claims.pressSamples (presses : List (Buttons × Buttons)) : List Buttons :=
  presses.flatMap (fun p => [0, p.1, p.2])

/-- The level a piece of the observation leaves on the data line. -/
def Claims.lastData (d : Bool) (es : List Event) : Bool :=
  es.foldl (fun d e => match e with | .data b => b | _ => d) d

/-- The level a piece of the observation leaves on the clock line. -/
def Claims.lastClk (d : Bool) (es : List Event) : Bool :=
  es.foldl (fun d e => match e with | .clk b => b | _ => d) d

/-- The durations of the Pace events of a RENDER: its generator's in modes 0 and 1, none in modes 2 to 5 (R173, R229). -/
def Claims.renderPaces (s : State) : List Nat :=
  if 2 ≤ s.mode.val then [] else if s.tcnt.toNat < s.cfg.tRoll then [s.cfg.rpPaceMs] else [s.cfg.rbPaceMs]

/-- The durations of the Pace events of a BTNPOLL: the debounce on a rising edge, else none (R171, R229). -/
def Claims.pollPaces (s : State) : List Nat := if s.nextDraw &&& ~~~ s.btnPrev = 0 then [] else [s.cfg.debounceMs]

/-! ## Arithmetic -/

/-- R13 whole: each primitive as a number; none can fail. -/
def Obligations.ArithmeticPrimitives : Prop :=
  (∀ a b : Byte, (add8 a b).toNat = (a.toNat + b.toNat) % 256 ∧ (carry8 a b = true ↔ 256 ≤ a.toNat + b.toNat) ∧
    (satsub8 a b).toNat = max 0 ((a.toNat : Int) - b.toNat) ∧ (satadd8 a b).toNat = min 255 (a.toNat + b.toNat) ∧
    (cpl8 a).toNat = 255 - a.toNat) ∧
  (∀ (a : Byte) (k : Nat), (shr a k).toNat = a.toNat / 2 ^ k ∧ (8 ≤ k → shr a k = 0)) ∧
  (∀ (x : Int) (n : Nat), 0 < n → pixelMod x n < n ∧ ∃ q : Int, x = q * n + pixelMod x n)

/-! ## Encoding -/

/-- No bit of an encoding is dropped: the decoder reads every command back from its word (R82 to R89). -/
def Obligations.DecodeOfEncodeIsTheCommand : Prop :=
  ∀ i : Instr, decode (encode i) = .ok i

/-- R89 whole: a word decodes exactly where some row of R88 matches it and, in format P, its channel is not 3; no word matches two rows; and
the command it decodes to is that row's, with the fields that put the word together again. -/
def Obligations.WordsDecodeByExactlyOneRow : Prop :=
  ∀ w : CmdWord,
    ((∃ i, decode w = .ok i) ↔ ∃ o : Opcode, w &&& o.mask = o.matchWord ∧ (o.format = .P → w.extractLsb' 24 2 ≠ 3)) ∧
    (∀ o o' : Opcode, w &&& o.mask = o.matchWord → w &&& o'.mask = o'.matchWord → o = o') ∧
    (∀ i, decode w = .ok i → w &&& i.opcode.mask = i.opcode.matchWord ∧ encode i = w)

/-- R90 whole: the words that decode to no command are those with opcode 0xE or 0xF, a nonzero reserved field (imm8 of a read among them),
or `ch = 3` in format P; each raises ILLEGAL_CMD; the all-zero word is NOP. -/
def Obligations.IllegalWordsRaiseIllegalCmd : Prop :=
  (∀ w : CmdWord, Claims.illegalWord w ↔ ∃ e, decode w = .error e) ∧
  (∀ w s rest, Claims.illegalWord w → State.Offers s w rest →
    step s = .next { s with pending := rest, rsp := none, done := true, fault := .illegalCmd }) ∧
  decode 0 = .ok .nop

/-- Six words written in 95_test_vectors.md (PB1, P1, PB6, P4 twice, CS10) decode to the commands they stand for, and two of its §2.9 are
rejected. -/
def Obligations.SampleWordsDecode : Prop :=
  decode 0x2203007F = .ok (.pbwr 3 .B 127) ∧ decode 0x12130000 = .ok (.pbrd 19 .B) ∧
  decode 0x40000003 = .ok (.pbdecay 3) ∧ decode 0xA0000000 = .ok .render ∧
  decode 0xD00100C7 = .ok (.csrwr 1 199) ∧ decode 0xC00C0000 = .ok (.csrrd 12) ∧
  decode 0x13140000 = .error .illegalChannel ∧ decode 0xC000000C = .error .reservedField

/-! ## Steps -/

/-- A step with AUTORUN = 0 executes the command the host's word decodes to: the word leaves the port, the last response is over, `done` is
signalled, and the rest is `exec` (R80, R177). -/
def Obligations.StepRunsTheOfferedCommand : Prop :=
  ∀ s w rest i, State.Offers s w rest → decode w = .ok i →
    step s = exec i { s with pending := rest, rsp := none, done := true }

/-- A step with AUTORUN = 1 executes FRAME, whatever the host offers (R177). -/
def Obligations.AutorunStepRunsFrame : Prop :=
  ∀ s : State, s.Ready → s.cfg.autorun = true → step s = exec .frame { s with rsp := none, done := false }

/-- With AUTORUN = 0 and no word offered the block waits: nothing changes but the transfer signals, and it is ready (R80, R221). -/
def Obligations.IdleStepWaits : Prop :=
  ∀ s : State, s.Ready → s.cfg.autorun = false → s.pending = [] →
    step s = .next { s with rsp := none, done := false } ∧ s.cmdReady = true

/-- In the faulted state the port is closed and no command runs: the model stops there by name (R203; the stop is the model's, entry 7). -/
def Obligations.FaultedBlockHalts : Prop :=
  ∀ s : State, s.cfg.legal = true → s.rst = .low → s.fault ≠ .noFault →
    step s = .fault (.halted s.fault) ∧ s.cmdReady = false

/-- The model rejects a configuration outside R8 (item 15 of 93_implementation_defined.md, entry 8). -/
def Obligations.IllegalConfigurationIsRefused : Prop :=
  ∀ s : State, s.cfg.legal = false → step s = .refused .illegalConfig

/-- R220 whole: whatever the state, the faulted one too, a step with `rst` = 1 or with `rst` rising inside a command gives every row of the
table its value; the events already emitted stand, and of an abandoned command's entries only those before `rst` rose are emitted. -/
def Obligations.ResetSetsEveryPieceOfState : Prop :=
  ∀ s : State, s.cfg.legal = true → s.rst ≠ .low →
    ∃ t, step s = .next t ∧ (∀ a, Memory.read t.pb a = 0) ∧ t.mode = 0 ∧ t.tcnt = 0 ∧ t.btnPrev = 0 ∧
      t.rb.sub = 0 ∧ t.rb.step = 0 ∧ t.rb.seed.r = 0 ∧ t.rb.seed.g = 0 ∧ t.rb.seed.b = 0 ∧
      t.rp.cnt = 0 ∧ t.rp.pos = 0 ∧ t.rp.cyc = 0 ∧ t.lines.sclk = false ∧ t.lines.sdata = false ∧ t.fault = .noFault ∧
      t.cfg = s.cfg ∧ (s.rst = .high → t.trace = s.trace) ∧
      (∀ k u, s.rst = .rises k → step { s with rst := .low } = .next u →
        ∃ es, u.trace = s.trace ++ es ∧ t.trace = s.trace ++ es.take k)

/-! ## Pixel Buffer -/

/-- R110 whole. -/
def Obligations.PbrdRespondsTheCell : Prop :=
  (∀ s idx ch, idx.toNat < s.cfg.n → exec (.pbrd idx ch) s =
    .next { s with rsp := some (memRead s.pb idx.toNat ch), trace := s.trace ++ [.resp (memRead s.pb idx.toNat ch)] }) ∧
  (∀ s idx ch, s.cfg.n ≤ idx.toNat → exec (.pbrd idx ch) s = .next { s with fault := .badIndex }) ∧
  Claims.Encoded 0x1
    (fun w => w.extractLsb' 26 2 ≠ 0 ∨ w.extractLsb' 0 16 ≠ 0 ∨ w.extractLsb' 24 2 = 3)
    (fun w i => ∃ ch : Channel, ch.code = w.extractLsb' 24 2 ∧ i = .pbrd (w.extractLsb' 16 8) ch)

/-- R111 whole: the cell named takes the byte, every other address keeps its byte, and nothing but the buffer changes. -/
def Obligations.PbwrWritesOneCell : Prop :=
  (∀ s idx ch v, Memory.wf s.pb = true → idx.toNat < s.cfg.n → ∃ t, exec (.pbwr idx ch v) s = .next t ∧
    memRead t.pb idx.toNat ch = v ∧ (∀ a, a ≠ cellAddr idx.toNat ch → Memory.read t.pb a = Memory.read s.pb a) ∧
    t = { s with pb := t.pb }) ∧
  (∀ s idx ch v, s.cfg.n ≤ idx.toNat → exec (.pbwr idx ch v) s = .next { s with fault := .badIndex }) ∧
  Claims.Encoded 0x2
    (fun w => w.extractLsb' 26 2 ≠ 0 ∨ w.extractLsb' 8 8 ≠ 0 ∨ w.extractLsb' 24 2 = 3)
    (fun w i => ∃ ch : Channel, ch.code = w.extractLsb' 24 2 ∧ i = .pbwr (w.extractLsb' 16 8) ch (w.extractLsb' 0 8))

/-- R112 whole: every cell holds the value, whatever it held; no other address and nothing but the buffer changes; a second fill changes
nothing. -/
def Obligations.PbfillSetsEveryCell : Prop :=
  (∀ s v, Memory.wf s.pb = true → ∃ t, exec (.pbfill v) s = .next t ∧
    (∀ i c, i < s.cfg.n → memRead t.pb i c = v) ∧ (∀ a, 3 * s.cfg.n ≤ a → Memory.read t.pb a = Memory.read s.pb a) ∧
    t = { s with pb := t.pb } ∧ exec (.pbfill v) t = .next t) ∧
  Claims.EncodedI 0x3 .pbfill

/-- R113 whole: every cell becomes max(0, v - delta), Nat subtraction being cut off at 0; nothing else changes. -/
def Obligations.PbdecayFloorsEveryCell : Prop :=
  (∀ s d, Memory.wf s.pb = true → ∃ t, exec (.pbdecay d) s = .next t ∧
    (∀ i c, i < s.cfg.n → (memRead t.pb i c).toNat = (memRead s.pb i c).toNat - d.toNat) ∧
    (∀ a, 3 * s.cfg.n ≤ a → Memory.read t.pb a = Memory.read s.pb a) ∧ t = { s with pb := t.pb }) ∧
  Claims.EncodedI 0x4 .pbdecay

/-- R155 whole: `k` passes of a one-bit shift leave every cell at floor(v / 2^k); nothing else changes, no Pace is emitted. -/
def Obligations.DimDividesByAPowerOfTwo : Prop :=
  (∀ s k, Memory.wf s.pb = true → ∃ t, exec (.dim k) s = .next t ∧
    (∀ i c, i < s.cfg.n → (memRead t.pb i c).toNat = (memRead s.pb i c).toNat / 2 ^ k.toNat) ∧
    (∀ a, 3 * s.cfg.n ≤ a → Memory.read t.pb a = Memory.read s.pb a) ∧ t = { s with pb := t.pb }) ∧
  Claims.EncodedI 0x5 .dim

/-- A read returns the last write: after PBWR, PBRD responds the byte written to that cell, and the old byte of any other (R67). -/
def Obligations.ReadReturnsTheLastWrite : Prop :=
  ∀ s i c v j d, Memory.wf s.pb = true → i.toNat < s.cfg.n → j.toNat < s.cfg.n → ∃ t u, exec (.pbwr i c v) s = .next t ∧
    exec (.pbrd j d) t = .next u ∧ u.rsp = some (if j = i ∧ d = c then v else memRead s.pb j.toNat d)

/-! ## Serial Transmitter -/

/-- R130 whole: the events are the line events of R132's stream, then the settle Pace; SCLK ends at 0 and SDATA at the last bit, bit 0 of
PB[N-1][R]; nothing but the lines and the observation changes. -/
def Obligations.TxframeSendsTheBuffer : Prop :=
  (∀ s : State, 0 < s.cfg.n → exec .txframe s = .next { s with
    lines := { sclk := false, sdata := (memRead s.pb (s.cfg.n - 1) .R).getLsbD 0 }
    trace := s.trace ++ (Claims.lineEvents (Claims.stream s.cfg.n s.pb) ++ [.pace s.cfg.txSettleMs]) }) ∧
  Claims.EncodedZ 0x8 .txframe

/-- R131 whole: 24N Data, 24N Clk(1), 24N Clk(0) events, bit by bit in that order, and then one Pace. -/
def Obligations.TxframeEventCount : Prop :=
  ∀ s : State, ∃ t bits, exec .txframe s = .next t ∧ bits.length = 24 * s.cfg.n ∧
    t.trace.drop s.trace.length = Claims.lineEvents bits ++ [.pace s.cfg.txSettleMs] ∧
    (t.trace.drop s.trace.length).countP (fun e => e = .data true || e = .data false) = 24 * s.cfg.n ∧
    (t.trace.drop s.trace.length).countP (fun e => e = .clk true) = 24 * s.cfg.n ∧
    (t.trace.drop s.trace.length).countP (fun e => e = .clk false) = 24 * s.cfg.n ∧
    paces (t.trace.drop s.trace.length) = [s.cfg.txSettleMs]

/-- R132: what a receiver samples at the rising clock edges is the buffer, pixels ascending, B, G, R, MSB first, whatever the data line held
before. -/
def Obligations.ReceiverSamplesTheBuffer : Prop :=
  ∀ s t d, exec .txframe s = .next t →
    sampledBits d (t.trace.drop s.trace.length) = (List.range s.cfg.n).flatMap (fun i =>
      Claims.msbFirst (memRead s.pb i .B) ++ Claims.msbFirst (memRead s.pb i .G) ++ Claims.msbFirst (memRead s.pb i .R))

/-- R31 whole: the lines hold the levels last driven, in TXFRAME (or the TXFRAME of FRAME) and in no other command; both are 0 after
reset. -/
def Obligations.LinesHoldTheLastDrivenLevels : Prop :=
  (∀ i s t, exec i s = .next t →
    t.lines.sdata = Claims.lastData s.lines.sdata (t.trace.drop s.trace.length) ∧
    t.lines.sclk = Claims.lastClk s.lines.sclk (t.trace.drop s.trace.length) ∧
    (i ∉ [.txframe, .frame] → t.lines = s.lines ∧ ∀ e ∈ t.trace.drop s.trace.length, ∀ b, e ≠ .data b ∧ e ≠ .clk b)) ∧
  (∀ c, (State.resetOf c).lines = { sclk := false, sdata := false })

/-- R229: the Pace events of each command, in order, with their default durations. RENDER has its generator's, FRAME that, the settle Pace and,
on a rising edge, the debounce Pace; the commands not named emit none. -/
def Obligations.PacingOfEachCommand : Prop :=
  (∀ i s t, exec i s = .next t → i ∉ [.rainbow, .rollpt, .txframe, .btnpoll, .render, .frame] →
    paces (t.trace.drop s.trace.length) = []) ∧
  (∀ s t, exec .rainbow s = .next t → t.trace = s.trace ++ [.pace s.cfg.rbPaceMs]) ∧
  (∀ s t, exec .rollpt s = .next t → t.trace = s.trace ++ [.pace s.cfg.rpPaceMs]) ∧
  (∀ s t, exec .txframe s = .next t → paces (t.trace.drop s.trace.length) = [s.cfg.txSettleMs] ∧
    t.trace.getLast? = some (.pace s.cfg.txSettleMs)) ∧
  (∀ s t, exec .btnpoll s = .next t → paces (t.trace.drop s.trace.length) = Claims.pollPaces s) ∧
  (∀ s t, exec .render s = .next t → paces (t.trace.drop s.trace.length) = Claims.renderPaces s) ∧
  (∀ s t, exec .frame s = .next t →
    paces (t.trace.drop s.trace.length) = Claims.renderPaces s ++ [s.cfg.txSettleMs] ++ Claims.pollPaces s) ∧
  Config.standard.rbPaceMs = 25 ∧ Config.standard.rpPaceMs = 50 ∧ Config.standard.txSettleMs = 1 ∧ Config.standard.debounceMs = 50

/-! ## Rainbow -/

/-- R140 whole: an entry with distinct channels gives each channel it names the step (UP) or 255 - step (DOWN), and leaves the others; a legal
table has eight such entries, none empty. -/
def Obligations.ApplyEntryDrivesTheNamedChannels : Prop :=
  (∀ (e : RainbowEntry) (st : Byte) (col : Colour) (c : Channel), (e.map Prod.fst).Nodup →
    Colour.get (applyEntry e st col) c =
      if (c, Polarity.up) ∈ e then st
      else if (c, Polarity.down) ∈ e then BitVec.ofNat 8 (255 - st.toNat)
      else Colour.get col c) ∧
  (∀ c : Config, c.legal = true → c.rainbowTable.length = 8 ∧ ∀ e ∈ c.rainbowTable, e ≠ [] ∧ (e.map Prod.fst).Nodup)

/-- R142 whole: the seed update, pixel `i` coloured at its phase from the colour of pixel `i - 1`, the phase advance, the Pace; nothing
else changes. -/
def Obligations.RainbowPaintsByPhase : Prop :=
  (∀ s : State, Memory.wf s.pb = true → ∃ t, exec .rainbow s = .next t ∧
    t.rb.seed = Claims.paint s.cfg (Claims.phase s.rb) s.rb.seed ∧
    (∀ i c, i < s.cfg.n → memRead t.pb i c = Colour.get (Claims.pixelColour s.cfg s.rb t.rb.seed i) c) ∧
    Claims.phase t.rb = (Claims.phase s.rb + s.cfg.rbCallStep.toNat) % 2048 ∧
    (∀ a, 3 * s.cfg.n ≤ a → Memory.read t.pb a = Memory.read s.pb a) ∧
    t = { s with pb := t.pb, rb := t.rb, trace := s.trace ++ [.pace s.cfg.rbPaceMs] }) ∧
  Claims.EncodedZ 0x6 .rainbow

/-- R143 whole: the buffer before a call does not matter; pixel `i` has the phase after `i` advances; the seeds after a call are the
colour of PB[0] after it; the phase advances by RB_CALL_STEP modulo 2048, with period 64 where the step is 32. -/
def Obligations.RainbowIgnoresTheOldBuffer : Prop :=
  (∀ s m t u, Memory.wf s.pb = true → Memory.within (3 * s.cfg.n) s.pb = true →
    Memory.wf m = true → Memory.within (3 * s.cfg.n) m = true →
    exec .rainbow s = .next t → exec .rainbow { s with pb := m } = .next u → u = t) ∧
  (∀ s t, Memory.wf s.pb = true → exec .rainbow s = .next t → ∀ i c, i < s.cfg.n →
    memRead t.pb i c = Colour.get (Claims.pixelColour s.cfg s.rb t.rb.seed i) c) ∧
  (∀ s t, Memory.wf s.pb = true → 0 < s.cfg.n → exec .rainbow s = .next t → ∀ c, memRead t.pb 0 c = Colour.get t.rb.seed c) ∧
  (∀ s : State, ∀ k, ∃ t, Claims.execTimes .rainbow k s = .next t ∧
    Claims.phase t.rb = (Claims.phase s.rb + k * s.cfg.rbCallStep.toNat) % 2048 ∧
    (s.cfg.rbCallStep = 32 → (Claims.phase t.rb = Claims.phase s.rb ↔ 64 ∣ k)))

/-- R144 for the default table (D13), from phase 0 and any seeds. With RB_CALL_STEP = 32 the seeds after 64 calls are (31, 31, 31), and from then
on the Rainbow state repeats with period 64 (C1); with RB_CALL_STEP = 1 the seeds after 2048 calls are (0, 0, 0). -/
def Obligations.DefaultRainbowCycleEndsAtThirtyOne : Prop :=
  ∀ s : State, s.cfg.rainbowTable = Config.defaultRainbowTable → s.rb.sub = 0 → s.rb.step = 0 →
    (s.cfg.rbCallStep = 32 →
      (∃ t, Claims.execTimes .rainbow 64 s = .next t ∧ t.rb = { sub := 0, step := 0, seed := { r := 31, g := 31, b := 31 } }) ∧
      (∀ k, ∃ t u, Claims.execTimes .rainbow (64 + k) s = .next t ∧ Claims.execTimes .rainbow (128 + k) s = .next u ∧ u.rb = t.rb)) ∧
    (s.cfg.rbCallStep = 1 →
      ∃ t, Claims.execTimes .rainbow 2048 s = .next t ∧ t.rb = { sub := 0, step := 0, seed := { r := 0, g := 0, b := 0 } })

/-! ## Rollpoints -/

/-- R145: the triangle wave, and that it stays below 128. -/
def Obligations.TriangleWave : Prop :=
  ∀ c : Byte, (high c).toNat = (if c.toNat ≤ 127 then c.toNat else 255 - c.toNat) ∧ (high c).toNat ≤ 127

/-- R148 whole: the three ways a comet's weight meets the old value, each in 0..255; the default is `assign`. -/
def Obligations.CometCombineChoices : Prop :=
  (∀ old w : Byte, combine .assign old w = w ∧ (combine .satAdd old w).toNat = min 255 (old.toNat + w.toNat) ∧
    (combine .maximum old w).toNat = max old.toNat w.toNat) ∧
  Config.standard.cometCombine = .assign

/-- R147 whole: fade every cell, advance the counter and, where it wraps, the cycle; draw on the cycle's channels the weights that fall on
each pixel, in drawing order, and leave the other channels faded; move; pace. Nothing else changes. -/
def Obligations.RollptDrawsTwoComets : Prop :=
  (∀ s : State, s.cfg.legal = true → Memory.wf s.pb = true → ∃ t, exec .rollpt s = .next t ∧
    t.rp.cnt.toNat = (s.rp.cnt.toNat + s.cfg.rpStep.toNat) % 256 ∧
    t.rp.cyc.val = (if 256 ≤ s.rp.cnt.toNat + s.cfg.rpStep.toNat then (s.rp.cyc.val + 1) % 7 else s.rp.cyc.val) ∧
    t.rp.pos.toNat = (s.rp.pos.toNat + 1) % s.cfg.n ∧
    (∀ i c, i < s.cfg.n → memRead t.pb i c =
      if c ∈ chset t.rp.cyc then
        (Claims.hits s.cfg s.rp.pos.toNat (high t.rp.cnt) i).foldl (combine s.cfg.cometCombine)
          (satsub8 (memRead s.pb i c) s.cfg.rpDecay)
      else satsub8 (memRead s.pb i c) s.cfg.rpDecay) ∧
    (∀ a, 3 * s.cfg.n ≤ a → Memory.read t.pb a = Memory.read s.pb a) ∧
    t = { s with pb := t.pb, rp := t.rp, trace := s.trace ++ [.pace s.cfg.rpPaceMs] }) ∧
  Claims.EncodedZ 0x7 .rollpt

/-- With N at least 10 and the default offset floor(N/2) (D18) the two comets never touch, nor the five pixels of one: the ten pixels that ROLLPT
draws on are distinct. So after a ROLLPT each of them holds, on the channels drawn, its own one weight combined with the faded value. -/
def Obligations.CometsAreDisjointFromTenPixels : Prop :=
  (∀ (c : Config) (pos : Byte), 10 ≤ c.n → c.rpOffset = c.n / 2 →
    ((cometCentres c pos).flatMap (fun centre => (List.range 5).map (cometPixel c.n centre))).Nodup) ∧
  (∀ s t, s.cfg.legal = true → Memory.wf s.pb = true → 10 ≤ s.cfg.n → s.cfg.rpOffset = s.cfg.n / 2 → exec .rollpt s = .next t →
    ∀ centre ∈ cometCentres s.cfg s.rp.pos, ∀ j < 5, ∀ ch ∈ chset t.rp.cyc,
      memRead t.pb (cometPixel s.cfg.n centre j) ch =
        combine s.cfg.cometCombine (satsub8 (memRead s.pb (cometPixel s.cfg.n centre j) ch) s.cfg.rpDecay)
          ((cometWeights (high t.rp.cnt)).getD j 0))

/-- R149 whole: the weights' bounds, no underflow in the fade, the counter's and the palette's periods for RP_STEP = 4, the position's. -/
def Obligations.RollptBoundsAndPeriods : Prop :=
  (∀ c : Byte, (high c).toNat ≤ 127 ∧ (shr (high c) 2).toNat ≤ 31 ∧ (shr (high c) 4).toNat ≤ 7) ∧
  (∀ v d : Byte, (satsub8 v d).toNat ≤ v.toNat ∧ (v.toNat ≤ d.toNat → satsub8 v d = 0)) ∧
  (∀ s : State, s.cfg.rpStep = 4 → s.rp.cnt.toNat % 4 = 0 →
    (∃ t, Claims.execTimes .rollpt 64 s = .next t ∧ t.rp.cnt = s.rp.cnt ∧ t.rp.cyc.val = (s.rp.cyc.val + 1) % 7) ∧
    (∃ t, Claims.execTimes .rollpt 448 s = .next t ∧ t.rp.cnt = s.rp.cnt ∧ t.rp.cyc = s.rp.cyc)) ∧
  (∀ s : State, s.cfg.legal = true → s.rp.pos.toNat < s.cfg.n → ∀ k,
    ∃ t, Claims.execTimes .rollpt k s = .next t ∧ (t.rp.pos = s.rp.pos ↔ s.cfg.n ∣ k))

/-- R146: the channels of each cycle state, in drawing order. -/
def Obligations.CycleChannels : Prop :=
  chset 0 = [.R, .G, .B] ∧ chset 1 = [.G, .B] ∧ chset 2 = [.B] ∧ chset 3 = [.R, .G] ∧ chset 4 = [.G] ∧
  chset 5 = [.B, .R] ∧ chset 6 = [.R]

/-- R156: a generator reads and writes its own state and the buffer, and no other generator's. -/
def Obligations.GeneratorsArePrivate : Prop :=
  (∀ s t, exec .rainbow s = .next t → t.rp = s.rp ∧
    ∀ s' t', s'.cfg = s.cfg → s'.pb = s.pb → s'.rb = s.rb → exec .rainbow s' = .next t' → t'.pb = t.pb ∧ t'.rb = t.rb) ∧
  (∀ s t, exec .rollpt s = .next t → t.rb = s.rb ∧
    ∀ s' t', s'.cfg = s.cfg → s'.pb = s.pb → s'.rp = s.rp → exec .rollpt s' = .next t' → t'.pb = t.pb ∧ t'.rp = t.rp) ∧
  (∀ s t v, (exec (.pbfill v) s = .next t ∨ exec (.dim v) s = .next t) → t.rb = s.rb ∧ t.rp = s.rp) ∧
  (∀ s s' t t' v, s'.cfg = s.cfg → s'.pb = s.pb →
    (exec (.pbfill v) s = .next t → exec (.pbfill v) s' = .next t' → t'.pb = t.pb) ∧
    (exec (.dim v) s = .next t → exec (.dim v) s' = .next t' → t'.pb = t.pb))

/-! ## Mode Sequencer -/

/-- R171 whole: one sample, stored in BTNPREV; on a rising edge the debounce Pace and a second sample, never stored, that advances MODE
cyclically where it is nonzero. Nothing else changes. The samples are the environment's: any. -/
def Obligations.BtnpollAdvancesOnConfirmedEdges : Prop :=
  (∀ s : State, s.nextDraw &&& ~~~ s.btnPrev = 0 → exec .btnpoll s = .next { s with
    btnPrev := s.nextDraw, draws := s.draws.tail, drawCount := s.drawCount + 1, trace := s.trace ++ [.draw s.nextDraw] }) ∧
  (∀ s : State, s.nextDraw &&& ~~~ s.btnPrev ≠ 0 → ∃ m : Fin 6,
    m.val = (if Claims.secondDraw s = 0 then s.mode.val else if s.mode.val = 5 then 0 else s.mode.val + 1) ∧
    exec .btnpoll s = .next { s with
      mode := m, btnPrev := s.nextDraw, draws := s.draws.tail.tail, drawCount := s.drawCount + 2
      trace := s.trace ++ [.draw s.nextDraw, .pace s.cfg.debounceMs, .draw (Claims.secondDraw s)] }) ∧
  Claims.EncodedZ 0x9 .btnpoll

/-- R172: confirmed presses, each after a release, visit the modes in order, whatever the buttons: after `k` of them MODE has advanced by
`k` modulo 6. -/
def Obligations.ConfirmedPressesCycleTheMode : Prop :=
  ∀ (presses : List (Buttons × Buttons)) (s : State) (rest : List Buttons),
    (∀ p ∈ presses, p.1 ≠ 0 ∧ p.2 ≠ 0) → s.draws = Claims.pressSamples presses ++ rest →
    ∃ t, Claims.execTimes .btnpoll (2 * presses.length) s = .next t ∧
      t.mode.val = (s.mode.val + presses.length) % 6 ∧ t.draws = rest

/-- R172: a mask held through any number of polls advances MODE once, in the first poll, if it rose there, and not again. -/
def Obligations.HeldButtonAdvancesOnce : Prop :=
  ∀ (k : Nat) (b : Buttons) (s : State) (rest : List Buttons), s.draws = List.replicate (k + 2) b ++ rest →
    ∃ t, Claims.execTimes .btnpoll (k + 1) s = .next t ∧ t.btnPrev = b ∧
      t.mode.val = if b &&& ~~~ s.btnPrev = 0 then s.mode.val else (s.mode.val + 1) % 6

/-- R173 whole: the generator of the mode and of TCNT, DIM after it in mode 1, a fill without a Pace in modes 2 to 5; then TCNT advances,
back to 0 at T_PERIOD, in every mode. -/
def Obligations.RenderSelectsTheGenerator : Prop :=
  (∀ s : State, s.cfg.legal = true → s.tcnt.toNat < s.cfg.tPeriod → ∃ u tc, exec .render s = .next { u with tcnt := tc } ∧
    tc.toNat = (if s.tcnt.toNat + 1 = s.cfg.tPeriod then 0 else s.tcnt.toNat + 1) ∧
    (s.mode = 0 → s.tcnt.toNat < s.cfg.tRoll → exec .rollpt s = .next u) ∧
    (s.mode = 0 → s.cfg.tRoll ≤ s.tcnt.toNat → exec .rainbow s = .next u) ∧
    (s.mode = 1 → s.tcnt.toNat < s.cfg.tRoll → ∃ v, exec .rollpt s = .next v ∧ exec (.dim s.cfg.dimKMode1) v = .next u) ∧
    (s.mode = 1 → s.cfg.tRoll ≤ s.tcnt.toNat → ∃ v, exec .rainbow s = .next v ∧ exec (.dim s.cfg.dimKMode1) v = .next u) ∧
    (s.mode = 2 → exec (.pbfill s.cfg.solidLevel2) s = .next u) ∧ (s.mode = 3 → exec (.pbfill s.cfg.solidLevel3) s = .next u) ∧
    (s.mode = 4 → exec (.pbfill s.cfg.solidLevel4) s = .next u) ∧ (s.mode = 5 → exec (.pbfill s.cfg.solidLevel5) s = .next u) ∧
    (2 ≤ s.mode.val → u.trace = s.trace)) ∧
  Claims.EncodedZ 0xA .render

/-- R25: the frame time counter counts renders modulo T_PERIOD, whatever the mode. -/
def Obligations.FrameCounterCycles : Prop :=
  ∀ (k : Nat) (s : State), s.cfg.legal = true → s.tcnt.toNat < s.cfg.tPeriod →
    ∃ t, Claims.execTimes .render k s = .next t ∧ t.tcnt.toNat = (s.tcnt.toNat + k) % s.cfg.tPeriod ∧ t.mode = s.mode

/-- R175 whole: FRAME is RENDER, TXFRAME, BTNPOLL in that order, and cannot fault; a mode change comes from its BTNPOLL, after the frame
was rendered in the old mode; a debounce Pace comes after the settle Pace. -/
def Obligations.FrameRendersTransmitsPolls : Prop :=
  (∀ s : State, ∃ u v t, exec .render s = .next u ∧ exec .txframe u = .next v ∧ exec .btnpoll v = .next t ∧
    exec .frame s = .next t ∧ u.mode = s.mode ∧ v.mode = s.mode ∧ t.fault = s.fault ∧
    ∃ es fs, v.trace = s.trace ++ es ++ [.pace s.cfg.txSettleMs] ∧ t.trace = v.trace ++ fs) ∧
  Claims.EncodedZ 0xB .frame

/-- R176 whole: the buffer is rendered, then transmitted, then the buttons are polled; what FRAME transmits, all of it, is exactly the buffer it
rendered, which neither the transmission nor the poll changes. -/
def Obligations.EveryFrameSentIsTheFrameRendered : Prop :=
  ∀ s t d, exec .frame s = .next t → ∃ u v, exec .render s = .next u ∧ exec .txframe u = .next v ∧ exec .btnpoll v = .next t ∧
    v.pb = u.pb ∧ t.pb = u.pb ∧ sampledBits d (t.trace.drop s.trace.length) = Claims.stream s.cfg.n u.pb

/-! ## Debug registers and NOP -/

/-- R193 whole: NOP changes nothing and emits nothing; as a host command it only signals `done`; its one word is 0. -/
def Obligations.NopChangesNothing : Prop :=
  (∀ s : State, exec .nop s = .next s) ∧
  (∀ s rest, State.Offers s 0 rest → step s = .next { s with pending := rest, rsp := none, done := true }) ∧
  Claims.EncodedZ 0x0 .nop

/-- R191 whole, with R190's map. -/
def Obligations.CsrrdRespondsTheRegister : Prop :=
  (∀ s reg, reg.toNat ≤ 0x0C → ∃ v : Byte, v.toNat = Claims.registerByte s reg.toNat ∧
    exec (.csrrd reg) s = .next { s with rsp := some v, trace := s.trace ++ [.resp v] }) ∧
  (∀ s reg, 0x0C < reg.toNat → exec (.csrrd reg) s = .next { s with fault := .badReg }) ∧
  Claims.Encoded 0xC (fun w => w.extractLsb' 24 4 ≠ 0 ∨ w.extractLsb' 0 16 ≠ 0) (fun w i => i = .csrrd (w.extractLsb' 16 8))

/-- R192 whole: each register takes a legal value, and nothing else changes; a value outside its legal set raises BAD_VALUE and a register
from 0x0C on raises BAD_REG, with nothing written. -/
def Obligations.CsrwrWritesOneRegister : Prop :=
  (∀ s reg v, 0x0C ≤ reg.toNat → exec (.csrwr reg v) s = .next { s with fault := .badReg }) ∧
  (∀ s reg v, reg.toNat < 0x0C → Claims.badValue s reg.toNat v.toNat → exec (.csrwr reg v) s = .next { s with fault := .badValue }) ∧
  (∀ s v, ¬ Claims.badValue s 0x00 v.toNat → ∃ m : Fin 6, m.val = v.toNat ∧ exec (.csrwr 0x00 v) s = .next { s with mode := m }) ∧
  (∀ s v, ¬ Claims.badValue s 0x01 v.toNat → ∃ x : BitVec 16, x.toNat = 256 * (s.tcnt.toNat / 256) + v.toNat ∧
    exec (.csrwr 0x01 v) s = .next { s with tcnt := x }) ∧
  (∀ s v, ¬ Claims.badValue s 0x02 v.toNat → ∃ x : BitVec 16, x.toNat = 256 * v.toNat + s.tcnt.toNat % 256 ∧
    exec (.csrwr 0x02 v) s = .next { s with tcnt := x }) ∧
  (∀ s v, ¬ Claims.badValue s 0x03 v.toNat → ∃ x : BitVec 2, x.toNat = v.toNat ∧ exec (.csrwr 0x03 v) s = .next { s with btnPrev := x }) ∧
  (∀ s v, ¬ Claims.badValue s 0x04 v.toNat → ∃ x : BitVec 3, x.toNat = v.toNat ∧
    exec (.csrwr 0x04 v) s = .next { s with rb := { s.rb with sub := x } }) ∧
  (∀ s v, exec (.csrwr 0x05 v) s = .next { s with rb := { s.rb with step := v } } ∧
    exec (.csrwr 0x06 v) s = .next { s with rb := { s.rb with seed := { s.rb.seed with r := v } } } ∧
    exec (.csrwr 0x07 v) s = .next { s with rb := { s.rb with seed := { s.rb.seed with g := v } } } ∧
    exec (.csrwr 0x08 v) s = .next { s with rb := { s.rb with seed := { s.rb.seed with b := v } } } ∧
    exec (.csrwr 0x09 v) s = .next { s with rp := { s.rp with cnt := v } }) ∧
  (∀ s v, ¬ Claims.badValue s 0x0A v.toNat → exec (.csrwr 0x0A v) s = .next { s with rp := { s.rp with pos := v } }) ∧
  (∀ s v, ¬ Claims.badValue s 0x0B v.toNat → ∃ x : Fin 7, x.val = v.toNat ∧
    exec (.csrwr 0x0B v) s = .next { s with rp := { s.rp with cyc := x } }) ∧
  Claims.Encoded 0xD (fun w => w.extractLsb' 24 4 ≠ 0 ∨ w.extractLsb' 8 8 ≠ 0)
    (fun w i => i = .csrwr (w.extractLsb' 16 8) (w.extractLsb' 0 8))

/-- What CSRWR accepts, CSRRD of the same register responds (R190 to R192). -/
def Obligations.DebugWriteReadsBack : Prop :=
  ∀ s reg v t, s.fault = .noFault → exec (.csrwr reg v) s = .next t → t.fault = .noFault →
    ∃ u, exec (.csrrd reg) t = .next u ∧ u.rsp = some v

/-! ## Faults -/

/-- The `fault` port carries the code of R200, 0 to 4; 5 to 7 are never produced (R32). -/
def Obligations.FaultPortShowsTheCode : Prop :=
  ∀ s : State, s.faultPort.toNat = (match s.fault with
      | .noFault => 0
      | .illegalCmd => 1
      | .badIndex => 2
      | .badReg => 3
      | .badValue => 4) ∧ s.faultPort.toNat ≤ 4

/-- R202 whole: a faulting command changes FAULT and nothing else, and emits nothing; as a host command it signals `done`. -/
def Obligations.FaultsArePrecise : Prop :=
  (∀ i s t, exec i s = .next t → t.fault ≠ s.fault → t = { s with fault := t.fault }) ∧
  (∀ s w rest t, State.Offers s w rest → step s = .next t → t.fault ≠ .noFault →
    t = { s with pending := rest, rsp := none, done := true, fault := t.fault })

/-- R201 whole: which command raises which fault, on which operands, and that the sequencer's commands and nested ones raise none. -/
def Obligations.EachCommandRaisesItsFaults : Prop :=
  (∀ s w rest t, State.Offers s w rest → step s = .next t → (t.fault = .illegalCmd ↔ Claims.illegalWord w)) ∧
  (∀ i s t, s.fault = .noFault → exec i s = .next t →
    (t.fault = .badIndex ↔ ∃ idx ch, (i = .pbrd idx ch ∨ ∃ v, i = .pbwr idx ch v) ∧ s.cfg.n ≤ idx.toNat) ∧
    (t.fault = .badReg ↔ (∃ reg, i = .csrrd reg ∧ 0x0C < reg.toNat) ∨ ∃ reg v, i = .csrwr reg v ∧ 0x0C ≤ reg.toNat) ∧
    (t.fault = .badValue ↔ ∃ reg v, i = .csrwr reg v ∧ reg.toNat < 0x0C ∧ Claims.badValue s reg.toNat v.toNat)) ∧
  (∀ s t : State, s.Ready → s.cfg.autorun = true → step s = .next t → t.fault = .noFault)

/-- R204: of the checks of one command the first that fails is reported: decoding before everything, then the register, then the value; the
index check is of other commands. -/
def Obligations.FaultPriority : Prop :=
  ∀ s w rest, State.Offers s w rest →
    (Claims.illegalWord w → ∃ t, step s = .next t ∧ t.fault = .illegalCmd) ∧
    (∀ reg, decode w = .ok (.csrrd reg) → 0x0C < reg.toNat → ∃ t, step s = .next t ∧ t.fault = .badReg) ∧
    (∀ reg v, decode w = .ok (.csrwr reg v) → 0x0C ≤ reg.toNat → ∃ t, step s = .next t ∧ t.fault = .badReg) ∧
    (∀ reg v, decode w = .ok (.csrwr reg v) → reg.toNat < 0x0C → Claims.badValue s reg.toNat v.toNat →
      ∃ t, step s = .next t ∧ t.fault = .badValue) ∧
    (∀ idx ch, (decode w = .ok (.pbrd idx ch) ∨ ∃ v, decode w = .ok (.pbwr idx ch v)) → s.cfg.n ≤ idx.toNat →
      ∃ t, step s = .next t ∧ t.fault = .badIndex)

/-! ## Whole-machine rules -/

/-- Every command completes in a next state, from every state and with every operand (R230; a fault is a next state with FAULT set). -/
def Obligations.EveryCommandCompletes : Prop :=
  ∀ (i : Instr) (s : State), ∃ t, exec i s = .next t

/-- The "written by" column of R36: a command changes only what the column names it for. -/
def Obligations.EachStateItemHasItsWriters : Prop :=
  ∀ i s t, exec i s = .next t →
    (t.pb ≠ s.pb → i ∈ [.rainbow, .rollpt, .render, .frame] ∨ (∃ v, i = .pbfill v ∨ i = .pbdecay v ∨ i = .dim v) ∨
      ∃ idx ch v, i = .pbwr idx ch v) ∧
    (t.mode ≠ s.mode → i ∈ [.btnpoll, .frame] ∨ ∃ reg v, i = .csrwr reg v) ∧
    (t.tcnt ≠ s.tcnt → i ∈ [.render, .frame] ∨ ∃ reg v, i = .csrwr reg v) ∧
    (t.btnPrev ≠ s.btnPrev → i ∈ [.btnpoll, .frame] ∨ ∃ reg v, i = .csrwr reg v) ∧
    (t.rb ≠ s.rb → i ∈ [.rainbow, .render, .frame] ∨ ∃ reg v, i = .csrwr reg v) ∧
    (t.rp ≠ s.rp → i ∈ [.rollpt, .render, .frame] ∨ ∃ reg v, i = .csrwr reg v) ∧
    (t.lines ≠ s.lines → i ∈ [.txframe, .frame]) ∧
    (t.rsp ≠ s.rsp → (∃ idx ch, i = .pbrd idx ch) ∨ ∃ reg, i = .csrrd reg) ∧
    (t.draws ≠ s.draws ∨ t.drawCount ≠ s.drawCount → i ∈ [.btnpoll, .frame]) ∧
    (t.fault ≠ s.fault → (∃ idx ch, i = .pbrd idx ch ∨ ∃ v, i = .pbwr idx ch v) ∨ ∃ reg, i = .csrrd reg ∨ ∃ v, i = .csrwr reg v) ∧
    t.cfg = s.cfg ∧ t.rst = s.rst ∧ t.pending = s.pending ∧ t.done = s.done

/-- MODE moves only by the cyclic advance of BTNPOLL (in FRAME too) or by a debug write (R170, R23). -/
def Obligations.ModeAdvancesCyclically : Prop :=
  ∀ i s t, exec i s = .next t → t.mode ≠ s.mode →
    (i ∈ [.btnpoll, .frame] ∧ t.mode.val = (s.mode.val + 1) % 6) ∨ ∃ v, i = .csrwr 0x00 v

/-- The legal values of R36 hold at every command boundary: from any state that has them, a step gives a state that has them. -/
def Obligations.StepKeepsTheInvariant : Prop :=
  ∀ s t : State, s.Inv → step s = .next t → t.Inv

/-- Reset gives a state that has the legal values of R36, whatever the legal parameters; the default parameters are legal (R8, R220). -/
def Obligations.ResetMeetsTheInvariant : Prop :=
  (∀ c : Config, c.legal = true → (State.resetOf c).Inv) ∧ State.reset.Inv

/-- The parameters are fixed for a run (R224), and what has been emitted stays emitted: every step keeps the record and extends the
observation. -/
def Obligations.StepKeepsTheConfiguration : Prop :=
  ∀ s t : State, step s = .next t → t.cfg = s.cfg ∧ ∃ es, t.trace = s.trace ++ es

/-- The deployed block never faults and never stops: with AUTORUN = 1 and `rst` low, any number of steps gives a next state with FAULT = 0,
still autonomous (R7, R177, R201). -/
def Obligations.AutonomousRunNeverFaults : Prop :=
  ∀ (k : Nat) (s : State), s.Ready → s.cfg.autorun = true →
    ∃ t, Host.Core.run core k s = .next t ∧ t.Ready ∧ t.cfg = s.cfg ∧ t.pending = s.pending

/-- An autonomous run is FRAME after FRAME: after `k` steps the frame time counter has counted `k` iterations modulo T_PERIOD, and `k` settle
Paces or more have been emitted with `24N` bits each: the receiver has sampled `24 N k` bits (R177, R25, R136). -/
def Obligations.AutonomousRunSendsOneFrameAStep : Prop :=
  ∀ (k : Nat) (s : State) (d : Bool), s.Ready → s.Inv → s.cfg.autorun = true → ∃ t, Host.Core.run core k s = .next t ∧ t.Inv ∧
    t.tcnt.toNat = (s.tcnt.toNat + k) % s.cfg.tPeriod ∧
    (sampledBits d (t.trace.drop s.trace.length)).length = 24 * s.cfg.n * k

/-- With AUTORUN = 1 the port is closed: `cmd_ready` is 0, nothing is taken from it, and `done` and `rsp_valid` stay 0 (R80). -/
def Obligations.AutorunClosesThePort : Prop :=
  ∀ s t : State, s.cfg.autorun = true → step s = .next t →
    s.cmdReady = false ∧ t.cmdReady = false ∧ t.pending = s.pending ∧ t.done = false ∧ t.rspValid = false

/-- `rsp` carries exactly the response the step's command emitted, if any (R80, D34). -/
def Obligations.ResponseIsTheOneEmitted : Prop :=
  ∀ s t : State, s.rst = .low → step s = .next t → (responses (t.trace.drop s.trace.length)) = t.rsp.toList

/-! ## Assembler -/

/-- R93: SETPIX, run as its expansion, sets the three channels of its pixel and leaves every other cell and all other state. -/
def Obligations.SetpixSetsOnePixel : Prop :=
  ∀ (s : State) (i r g b : Nat), Memory.wf s.pb = true → i < s.cfg.n → i ≤ 255 → r ≤ 255 → g ≤ 255 → b ≤ 255 →
    ∃ is t, commandsOf s.cfg (.setpix i r g b) = some is ∧ Claims.execAll is s = .next t ∧
      (memRead t.pb i .R).toNat = r ∧ (memRead t.pb i .G).toNat = g ∧ (memRead t.pb i .B).toNat = b ∧
      (∀ j c, j ≠ i → memRead t.pb j c = memRead s.pb j c) ∧ t = { s with pb := t.pb }

/-- R93: each of the other pseudo-instructions does what its expansion does; a number over 255 is an assembly error (R92). -/
def Obligations.PseudoInstructionsExpand : Prop :=
  ∀ (c : Config) (v : Nat),
    (commandsOf c (.solid v) = if v ≤ 255 then some [.pbfill (BitVec.ofNat 8 v)] else none) ∧
    (commandsOf c (.setmode v) = if v ≤ 255 then some [.csrwr 0x00 (BitVec.ofNat 8 v)] else none) ∧
    commandsOf c .clear = some [.pbfill 0] ∧ commandsOf c .halve = some [.dim 1] ∧
    commandsOf c .fade = some [.pbdecay c.rpDecay]
end

