-- ==== Sys2Proof/Laws/Arith.lean ====
section
/-! SUPPORT. What the arithmetic primitives of R13 compute, as numbers. -/

namespace Sys2Proof.Machine

@[simp] theorem add8_eq (a b : Byte) : add8 a b = a + b := by
  apply BitVec.eq_of_toNat_eq; simp [add8, BitVec.toNat_add]

theorem add8_toNat (a b : Byte) : (add8 a b).toNat = (a.toNat + b.toNat) % 256 := by
  simp [BitVec.toNat_add]

@[simp] theorem carry8_iff (a b : Byte) : carry8 a b = true ↔ 256 ≤ a.toNat + b.toNat := by
  simp [carry8]

@[simp] theorem satsub8_toNat (a d : Byte) : (satsub8 a d).toNat = a.toNat - d.toNat := by
  have := a.isLt
  simp only [satsub8, BitVec.toNat_ofNat]; omega

@[simp] theorem satadd8_toNat (a b : Byte) : (satadd8 a b).toNat = min 255 (a.toNat + b.toNat) := by
  simp only [satadd8, BitVec.toNat_ofNat]; omega

@[simp] theorem cpl8_toNat (a : Byte) : (cpl8 a).toNat = 255 - a.toNat := by
  simp only [cpl8, BitVec.toNat_ofNat]; omega

@[simp] theorem shr_toNat (a : Byte) (k : Nat) : (shr a k).toNat = a.toNat / 2 ^ k := by
  have h := Nat.div_le_self a.toNat (2 ^ k)
  have := a.isLt
  simp only [shr, BitVec.toNat_ofNat]
  exact Nat.mod_eq_of_lt (by omega)

@[simp] theorem max8_toNat (a b : Byte) : (max8 a b).toNat = max a.toNat b.toNat := by
  have := a.isLt; have := b.isLt
  simp only [max8, BitVec.toNat_ofNat]; omega

@[simp] theorem shr_zero (a : Byte) : shr a 0 = a := by
  apply BitVec.eq_of_toNat_eq; simp

/-- Shifts add up (R155: `k` one-bit passes are a shift by `k`). -/
theorem shr_shr (a : Byte) (j k : Nat) : shr (shr a j) k = shr a (j + k) := by
  apply BitVec.eq_of_toNat_eq; simp [Nat.div_div_eq_div_mul, Nat.pow_add]

/-- Two bytes put together, the first one high (TCNT, R190). -/
theorem append8_toNat (hi lo : Byte) : (hi ++ lo : BitVec 16).toNat = 256 * hi.toNat + lo.toNat := by
  have h1 := hi.isLt
  have h2 := lo.isLt
  rw [BitVec.toNat_append, ← Nat.shiftLeft_add_eq_or_of_lt h2, Nat.shiftLeft_eq]
  omega

/-- The remainder of a pixel index is an index (R64). -/
theorem pixelMod_lt (x : Int) {n : Nat} (h : 0 < n) : pixelMod x n < n := by
  unfold pixelMod
  have h1 := Int.emod_lt_of_pos x (Int.natCast_pos.mpr h)
  have h2 := Int.emod_nonneg x (Int.natCast_ne_zero.mpr (Nat.pos_iff_ne_zero.mp h))
  omega

/-- On natural numbers it is the ordinary remainder. -/
theorem pixelMod_natCast (x n : Nat) : pixelMod (x : Int) n = x % n := by
  unfold pixelMod; rw [← Int.natCast_emod, Int.toNat_natCast]

end Sys2Proof.Machine
end

