-- ==== Sys2Proof/Laws/State.lean ====
section
/-! SUPPORT. One lemma per field per named update of the state (Machine/Ops.lean): what it sets, and that it leaves the rest. -/

namespace Sys2Proof.Machine

/-! ### `State.setPb` -/

@[simp] theorem State.setPb_cfg (s : State) (m : Memory) : (s.setPb m).cfg = s.cfg := rfl
@[simp] theorem State.setPb_pb (s : State) (m : Memory) : (s.setPb m).pb = m := rfl
@[simp] theorem State.setPb_mode (s : State) (m : Memory) : (s.setPb m).mode = s.mode := rfl
@[simp] theorem State.setPb_tcnt (s : State) (m : Memory) : (s.setPb m).tcnt = s.tcnt := rfl
@[simp] theorem State.setPb_btnPrev (s : State) (m : Memory) : (s.setPb m).btnPrev = s.btnPrev := rfl
@[simp] theorem State.setPb_rb (s : State) (m : Memory) : (s.setPb m).rb = s.rb := rfl
@[simp] theorem State.setPb_rp (s : State) (m : Memory) : (s.setPb m).rp = s.rp := rfl
@[simp] theorem State.setPb_lines (s : State) (m : Memory) : (s.setPb m).lines = s.lines := rfl
@[simp] theorem State.setPb_fault (s : State) (m : Memory) : (s.setPb m).fault = s.fault := rfl
@[simp] theorem State.setPb_rst (s : State) (m : Memory) : (s.setPb m).rst = s.rst := rfl
@[simp] theorem State.setPb_pending (s : State) (m : Memory) : (s.setPb m).pending = s.pending := rfl
@[simp] theorem State.setPb_draws (s : State) (m : Memory) : (s.setPb m).draws = s.draws := rfl
@[simp] theorem State.setPb_drawCount (s : State) (m : Memory) : (s.setPb m).drawCount = s.drawCount := rfl
@[simp] theorem State.setPb_rsp (s : State) (m : Memory) : (s.setPb m).rsp = s.rsp := rfl
@[simp] theorem State.setPb_done (s : State) (m : Memory) : (s.setPb m).done = s.done := rfl
@[simp] theorem State.setPb_trace (s : State) (m : Memory) : (s.setPb m).trace = s.trace := rfl

/-! ### `State.setMode` -/

@[simp] theorem State.setMode_cfg (s : State) (m : Fin 6) : (s.setMode m).cfg = s.cfg := rfl
@[simp] theorem State.setMode_pb (s : State) (m : Fin 6) : (s.setMode m).pb = s.pb := rfl
@[simp] theorem State.setMode_mode (s : State) (m : Fin 6) : (s.setMode m).mode = m := rfl
@[simp] theorem State.setMode_tcnt (s : State) (m : Fin 6) : (s.setMode m).tcnt = s.tcnt := rfl
@[simp] theorem State.setMode_btnPrev (s : State) (m : Fin 6) : (s.setMode m).btnPrev = s.btnPrev := rfl
@[simp] theorem State.setMode_rb (s : State) (m : Fin 6) : (s.setMode m).rb = s.rb := rfl
@[simp] theorem State.setMode_rp (s : State) (m : Fin 6) : (s.setMode m).rp = s.rp := rfl
@[simp] theorem State.setMode_lines (s : State) (m : Fin 6) : (s.setMode m).lines = s.lines := rfl
@[simp] theorem State.setMode_fault (s : State) (m : Fin 6) : (s.setMode m).fault = s.fault := rfl
@[simp] theorem State.setMode_rst (s : State) (m : Fin 6) : (s.setMode m).rst = s.rst := rfl
@[simp] theorem State.setMode_pending (s : State) (m : Fin 6) : (s.setMode m).pending = s.pending := rfl
@[simp] theorem State.setMode_draws (s : State) (m : Fin 6) : (s.setMode m).draws = s.draws := rfl
@[simp] theorem State.setMode_drawCount (s : State) (m : Fin 6) : (s.setMode m).drawCount = s.drawCount := rfl
@[simp] theorem State.setMode_rsp (s : State) (m : Fin 6) : (s.setMode m).rsp = s.rsp := rfl
@[simp] theorem State.setMode_done (s : State) (m : Fin 6) : (s.setMode m).done = s.done := rfl
@[simp] theorem State.setMode_trace (s : State) (m : Fin 6) : (s.setMode m).trace = s.trace := rfl

/-! ### `State.setTcnt` -/

@[simp] theorem State.setTcnt_cfg (s : State) (t : BitVec 16) : (s.setTcnt t).cfg = s.cfg := rfl
@[simp] theorem State.setTcnt_pb (s : State) (t : BitVec 16) : (s.setTcnt t).pb = s.pb := rfl
@[simp] theorem State.setTcnt_mode (s : State) (t : BitVec 16) : (s.setTcnt t).mode = s.mode := rfl
@[simp] theorem State.setTcnt_tcnt (s : State) (t : BitVec 16) : (s.setTcnt t).tcnt = t := rfl
@[simp] theorem State.setTcnt_btnPrev (s : State) (t : BitVec 16) : (s.setTcnt t).btnPrev = s.btnPrev := rfl
@[simp] theorem State.setTcnt_rb (s : State) (t : BitVec 16) : (s.setTcnt t).rb = s.rb := rfl
@[simp] theorem State.setTcnt_rp (s : State) (t : BitVec 16) : (s.setTcnt t).rp = s.rp := rfl
@[simp] theorem State.setTcnt_lines (s : State) (t : BitVec 16) : (s.setTcnt t).lines = s.lines := rfl
@[simp] theorem State.setTcnt_fault (s : State) (t : BitVec 16) : (s.setTcnt t).fault = s.fault := rfl
@[simp] theorem State.setTcnt_rst (s : State) (t : BitVec 16) : (s.setTcnt t).rst = s.rst := rfl
@[simp] theorem State.setTcnt_pending (s : State) (t : BitVec 16) : (s.setTcnt t).pending = s.pending := rfl
@[simp] theorem State.setTcnt_draws (s : State) (t : BitVec 16) : (s.setTcnt t).draws = s.draws := rfl
@[simp] theorem State.setTcnt_drawCount (s : State) (t : BitVec 16) : (s.setTcnt t).drawCount = s.drawCount := rfl
@[simp] theorem State.setTcnt_rsp (s : State) (t : BitVec 16) : (s.setTcnt t).rsp = s.rsp := rfl
@[simp] theorem State.setTcnt_done (s : State) (t : BitVec 16) : (s.setTcnt t).done = s.done := rfl
@[simp] theorem State.setTcnt_trace (s : State) (t : BitVec 16) : (s.setTcnt t).trace = s.trace := rfl

/-! ### `State.setBtnPrev` -/

@[simp] theorem State.setBtnPrev_cfg (s : State) (b : Buttons) : (s.setBtnPrev b).cfg = s.cfg := rfl
@[simp] theorem State.setBtnPrev_pb (s : State) (b : Buttons) : (s.setBtnPrev b).pb = s.pb := rfl
@[simp] theorem State.setBtnPrev_mode (s : State) (b : Buttons) : (s.setBtnPrev b).mode = s.mode := rfl
@[simp] theorem State.setBtnPrev_tcnt (s : State) (b : Buttons) : (s.setBtnPrev b).tcnt = s.tcnt := rfl
@[simp] theorem State.setBtnPrev_btnPrev (s : State) (b : Buttons) : (s.setBtnPrev b).btnPrev = b := rfl
@[simp] theorem State.setBtnPrev_rb (s : State) (b : Buttons) : (s.setBtnPrev b).rb = s.rb := rfl
@[simp] theorem State.setBtnPrev_rp (s : State) (b : Buttons) : (s.setBtnPrev b).rp = s.rp := rfl
@[simp] theorem State.setBtnPrev_lines (s : State) (b : Buttons) : (s.setBtnPrev b).lines = s.lines := rfl
@[simp] theorem State.setBtnPrev_fault (s : State) (b : Buttons) : (s.setBtnPrev b).fault = s.fault := rfl
@[simp] theorem State.setBtnPrev_rst (s : State) (b : Buttons) : (s.setBtnPrev b).rst = s.rst := rfl
@[simp] theorem State.setBtnPrev_pending (s : State) (b : Buttons) : (s.setBtnPrev b).pending = s.pending := rfl
@[simp] theorem State.setBtnPrev_draws (s : State) (b : Buttons) : (s.setBtnPrev b).draws = s.draws := rfl
@[simp] theorem State.setBtnPrev_drawCount (s : State) (b : Buttons) : (s.setBtnPrev b).drawCount = s.drawCount := rfl
@[simp] theorem State.setBtnPrev_rsp (s : State) (b : Buttons) : (s.setBtnPrev b).rsp = s.rsp := rfl
@[simp] theorem State.setBtnPrev_done (s : State) (b : Buttons) : (s.setBtnPrev b).done = s.done := rfl
@[simp] theorem State.setBtnPrev_trace (s : State) (b : Buttons) : (s.setBtnPrev b).trace = s.trace := rfl

/-! ### `State.setRb` -/

@[simp] theorem State.setRb_cfg (s : State) (x : RainbowRegs) : (s.setRb x).cfg = s.cfg := rfl
@[simp] theorem State.setRb_pb (s : State) (x : RainbowRegs) : (s.setRb x).pb = s.pb := rfl
@[simp] theorem State.setRb_mode (s : State) (x : RainbowRegs) : (s.setRb x).mode = s.mode := rfl
@[simp] theorem State.setRb_tcnt (s : State) (x : RainbowRegs) : (s.setRb x).tcnt = s.tcnt := rfl
@[simp] theorem State.setRb_btnPrev (s : State) (x : RainbowRegs) : (s.setRb x).btnPrev = s.btnPrev := rfl
@[simp] theorem State.setRb_rb (s : State) (x : RainbowRegs) : (s.setRb x).rb = x := rfl
@[simp] theorem State.setRb_rp (s : State) (x : RainbowRegs) : (s.setRb x).rp = s.rp := rfl
@[simp] theorem State.setRb_lines (s : State) (x : RainbowRegs) : (s.setRb x).lines = s.lines := rfl
@[simp] theorem State.setRb_fault (s : State) (x : RainbowRegs) : (s.setRb x).fault = s.fault := rfl
@[simp] theorem State.setRb_rst (s : State) (x : RainbowRegs) : (s.setRb x).rst = s.rst := rfl
@[simp] theorem State.setRb_pending (s : State) (x : RainbowRegs) : (s.setRb x).pending = s.pending := rfl
@[simp] theorem State.setRb_draws (s : State) (x : RainbowRegs) : (s.setRb x).draws = s.draws := rfl
@[simp] theorem State.setRb_drawCount (s : State) (x : RainbowRegs) : (s.setRb x).drawCount = s.drawCount := rfl
@[simp] theorem State.setRb_rsp (s : State) (x : RainbowRegs) : (s.setRb x).rsp = s.rsp := rfl
@[simp] theorem State.setRb_done (s : State) (x : RainbowRegs) : (s.setRb x).done = s.done := rfl
@[simp] theorem State.setRb_trace (s : State) (x : RainbowRegs) : (s.setRb x).trace = s.trace := rfl

/-! ### `State.setRp` -/

@[simp] theorem State.setRp_cfg (s : State) (x : RollptRegs) : (s.setRp x).cfg = s.cfg := rfl
@[simp] theorem State.setRp_pb (s : State) (x : RollptRegs) : (s.setRp x).pb = s.pb := rfl
@[simp] theorem State.setRp_mode (s : State) (x : RollptRegs) : (s.setRp x).mode = s.mode := rfl
@[simp] theorem State.setRp_tcnt (s : State) (x : RollptRegs) : (s.setRp x).tcnt = s.tcnt := rfl
@[simp] theorem State.setRp_btnPrev (s : State) (x : RollptRegs) : (s.setRp x).btnPrev = s.btnPrev := rfl
@[simp] theorem State.setRp_rb (s : State) (x : RollptRegs) : (s.setRp x).rb = s.rb := rfl
@[simp] theorem State.setRp_rp (s : State) (x : RollptRegs) : (s.setRp x).rp = x := rfl
@[simp] theorem State.setRp_lines (s : State) (x : RollptRegs) : (s.setRp x).lines = s.lines := rfl
@[simp] theorem State.setRp_fault (s : State) (x : RollptRegs) : (s.setRp x).fault = s.fault := rfl
@[simp] theorem State.setRp_rst (s : State) (x : RollptRegs) : (s.setRp x).rst = s.rst := rfl
@[simp] theorem State.setRp_pending (s : State) (x : RollptRegs) : (s.setRp x).pending = s.pending := rfl
@[simp] theorem State.setRp_draws (s : State) (x : RollptRegs) : (s.setRp x).draws = s.draws := rfl
@[simp] theorem State.setRp_drawCount (s : State) (x : RollptRegs) : (s.setRp x).drawCount = s.drawCount := rfl
@[simp] theorem State.setRp_rsp (s : State) (x : RollptRegs) : (s.setRp x).rsp = s.rsp := rfl
@[simp] theorem State.setRp_done (s : State) (x : RollptRegs) : (s.setRp x).done = s.done := rfl
@[simp] theorem State.setRp_trace (s : State) (x : RollptRegs) : (s.setRp x).trace = s.trace := rfl

/-! ### `State.setLines` -/

@[simp] theorem State.setLines_cfg (s : State) (l : Lines) : (s.setLines l).cfg = s.cfg := rfl
@[simp] theorem State.setLines_pb (s : State) (l : Lines) : (s.setLines l).pb = s.pb := rfl
@[simp] theorem State.setLines_mode (s : State) (l : Lines) : (s.setLines l).mode = s.mode := rfl
@[simp] theorem State.setLines_tcnt (s : State) (l : Lines) : (s.setLines l).tcnt = s.tcnt := rfl
@[simp] theorem State.setLines_btnPrev (s : State) (l : Lines) : (s.setLines l).btnPrev = s.btnPrev := rfl
@[simp] theorem State.setLines_rb (s : State) (l : Lines) : (s.setLines l).rb = s.rb := rfl
@[simp] theorem State.setLines_rp (s : State) (l : Lines) : (s.setLines l).rp = s.rp := rfl
@[simp] theorem State.setLines_lines (s : State) (l : Lines) : (s.setLines l).lines = l := rfl
@[simp] theorem State.setLines_fault (s : State) (l : Lines) : (s.setLines l).fault = s.fault := rfl
@[simp] theorem State.setLines_rst (s : State) (l : Lines) : (s.setLines l).rst = s.rst := rfl
@[simp] theorem State.setLines_pending (s : State) (l : Lines) : (s.setLines l).pending = s.pending := rfl
@[simp] theorem State.setLines_draws (s : State) (l : Lines) : (s.setLines l).draws = s.draws := rfl
@[simp] theorem State.setLines_drawCount (s : State) (l : Lines) : (s.setLines l).drawCount = s.drawCount := rfl
@[simp] theorem State.setLines_rsp (s : State) (l : Lines) : (s.setLines l).rsp = s.rsp := rfl
@[simp] theorem State.setLines_done (s : State) (l : Lines) : (s.setLines l).done = s.done := rfl
@[simp] theorem State.setLines_trace (s : State) (l : Lines) : (s.setLines l).trace = s.trace := rfl

/-! ### `State.emit` -/

@[simp] theorem State.emit_cfg (s : State) (es : List Event) : (s.emit es).cfg = s.cfg := rfl
@[simp] theorem State.emit_pb (s : State) (es : List Event) : (s.emit es).pb = s.pb := rfl
@[simp] theorem State.emit_mode (s : State) (es : List Event) : (s.emit es).mode = s.mode := rfl
@[simp] theorem State.emit_tcnt (s : State) (es : List Event) : (s.emit es).tcnt = s.tcnt := rfl
@[simp] theorem State.emit_btnPrev (s : State) (es : List Event) : (s.emit es).btnPrev = s.btnPrev := rfl
@[simp] theorem State.emit_rb (s : State) (es : List Event) : (s.emit es).rb = s.rb := rfl
@[simp] theorem State.emit_rp (s : State) (es : List Event) : (s.emit es).rp = s.rp := rfl
@[simp] theorem State.emit_lines (s : State) (es : List Event) : (s.emit es).lines = s.lines := rfl
@[simp] theorem State.emit_fault (s : State) (es : List Event) : (s.emit es).fault = s.fault := rfl
@[simp] theorem State.emit_rst (s : State) (es : List Event) : (s.emit es).rst = s.rst := rfl
@[simp] theorem State.emit_pending (s : State) (es : List Event) : (s.emit es).pending = s.pending := rfl
@[simp] theorem State.emit_draws (s : State) (es : List Event) : (s.emit es).draws = s.draws := rfl
@[simp] theorem State.emit_drawCount (s : State) (es : List Event) : (s.emit es).drawCount = s.drawCount := rfl
@[simp] theorem State.emit_rsp (s : State) (es : List Event) : (s.emit es).rsp = s.rsp := rfl
@[simp] theorem State.emit_done (s : State) (es : List Event) : (s.emit es).done = s.done := rfl
@[simp] theorem State.emit_trace (s : State) (es : List Event) : (s.emit es).trace = s.trace ++ es := rfl

/-! ### `State.respond` -/

@[simp] theorem State.respond_cfg (s : State) (v : Byte) : (s.respond v).cfg = s.cfg := rfl
@[simp] theorem State.respond_pb (s : State) (v : Byte) : (s.respond v).pb = s.pb := rfl
@[simp] theorem State.respond_mode (s : State) (v : Byte) : (s.respond v).mode = s.mode := rfl
@[simp] theorem State.respond_tcnt (s : State) (v : Byte) : (s.respond v).tcnt = s.tcnt := rfl
@[simp] theorem State.respond_btnPrev (s : State) (v : Byte) : (s.respond v).btnPrev = s.btnPrev := rfl
@[simp] theorem State.respond_rb (s : State) (v : Byte) : (s.respond v).rb = s.rb := rfl
@[simp] theorem State.respond_rp (s : State) (v : Byte) : (s.respond v).rp = s.rp := rfl
@[simp] theorem State.respond_lines (s : State) (v : Byte) : (s.respond v).lines = s.lines := rfl
@[simp] theorem State.respond_fault (s : State) (v : Byte) : (s.respond v).fault = s.fault := rfl
@[simp] theorem State.respond_rst (s : State) (v : Byte) : (s.respond v).rst = s.rst := rfl
@[simp] theorem State.respond_pending (s : State) (v : Byte) : (s.respond v).pending = s.pending := rfl
@[simp] theorem State.respond_draws (s : State) (v : Byte) : (s.respond v).draws = s.draws := rfl
@[simp] theorem State.respond_drawCount (s : State) (v : Byte) : (s.respond v).drawCount = s.drawCount := rfl
@[simp] theorem State.respond_rsp (s : State) (v : Byte) : (s.respond v).rsp = some v := rfl
@[simp] theorem State.respond_done (s : State) (v : Byte) : (s.respond v).done = s.done := rfl
@[simp] theorem State.respond_trace (s : State) (v : Byte) : (s.respond v).trace = s.trace ++ [.resp v] := rfl

/-! ### `State.raiseFault` -/

@[simp] theorem State.raiseFault_cfg (s : State) (code : FaultCode) : (s.raiseFault code).cfg = s.cfg := rfl
@[simp] theorem State.raiseFault_pb (s : State) (code : FaultCode) : (s.raiseFault code).pb = s.pb := rfl
@[simp] theorem State.raiseFault_mode (s : State) (code : FaultCode) : (s.raiseFault code).mode = s.mode := rfl
@[simp] theorem State.raiseFault_tcnt (s : State) (code : FaultCode) : (s.raiseFault code).tcnt = s.tcnt := rfl
@[simp] theorem State.raiseFault_btnPrev (s : State) (code : FaultCode) : (s.raiseFault code).btnPrev = s.btnPrev := rfl
@[simp] theorem State.raiseFault_rb (s : State) (code : FaultCode) : (s.raiseFault code).rb = s.rb := rfl
@[simp] theorem State.raiseFault_rp (s : State) (code : FaultCode) : (s.raiseFault code).rp = s.rp := rfl
@[simp] theorem State.raiseFault_lines (s : State) (code : FaultCode) : (s.raiseFault code).lines = s.lines := rfl
@[simp] theorem State.raiseFault_fault (s : State) (code : FaultCode) : (s.raiseFault code).fault = code := rfl
@[simp] theorem State.raiseFault_rst (s : State) (code : FaultCode) : (s.raiseFault code).rst = s.rst := rfl
@[simp] theorem State.raiseFault_pending (s : State) (code : FaultCode) : (s.raiseFault code).pending = s.pending := rfl
@[simp] theorem State.raiseFault_draws (s : State) (code : FaultCode) : (s.raiseFault code).draws = s.draws := rfl
@[simp] theorem State.raiseFault_drawCount (s : State) (code : FaultCode) : (s.raiseFault code).drawCount = s.drawCount := rfl
@[simp] theorem State.raiseFault_rsp (s : State) (code : FaultCode) : (s.raiseFault code).rsp = s.rsp := rfl
@[simp] theorem State.raiseFault_done (s : State) (code : FaultCode) : (s.raiseFault code).done = s.done := rfl
@[simp] theorem State.raiseFault_trace (s : State) (code : FaultCode) : (s.raiseFault code).trace = s.trace := rfl

/-! ### `State.takeDraw` -/

@[simp] theorem State.takeDraw_cfg (s : State) : (s.takeDraw).cfg = s.cfg := rfl
@[simp] theorem State.takeDraw_pb (s : State) : (s.takeDraw).pb = s.pb := rfl
@[simp] theorem State.takeDraw_mode (s : State) : (s.takeDraw).mode = s.mode := rfl
@[simp] theorem State.takeDraw_tcnt (s : State) : (s.takeDraw).tcnt = s.tcnt := rfl
@[simp] theorem State.takeDraw_btnPrev (s : State) : (s.takeDraw).btnPrev = s.btnPrev := rfl
@[simp] theorem State.takeDraw_rb (s : State) : (s.takeDraw).rb = s.rb := rfl
@[simp] theorem State.takeDraw_rp (s : State) : (s.takeDraw).rp = s.rp := rfl
@[simp] theorem State.takeDraw_lines (s : State) : (s.takeDraw).lines = s.lines := rfl
@[simp] theorem State.takeDraw_fault (s : State) : (s.takeDraw).fault = s.fault := rfl
@[simp] theorem State.takeDraw_rst (s : State) : (s.takeDraw).rst = s.rst := rfl
@[simp] theorem State.takeDraw_pending (s : State) : (s.takeDraw).pending = s.pending := rfl
@[simp] theorem State.takeDraw_draws (s : State) : (s.takeDraw).draws = s.draws.tail := rfl
@[simp] theorem State.takeDraw_drawCount (s : State) : (s.takeDraw).drawCount = s.drawCount + 1 := rfl
@[simp] theorem State.takeDraw_rsp (s : State) : (s.takeDraw).rsp = s.rsp := rfl
@[simp] theorem State.takeDraw_done (s : State) : (s.takeDraw).done = s.done := rfl
@[simp] theorem State.takeDraw_trace (s : State) : (s.takeDraw).trace = s.trace ++ [.draw s.nextDraw] := rfl

/-! ### `State.accept` -/

@[simp] theorem State.accept_cfg (s : State) : (s.accept).cfg = s.cfg := rfl
@[simp] theorem State.accept_pb (s : State) : (s.accept).pb = s.pb := rfl
@[simp] theorem State.accept_mode (s : State) : (s.accept).mode = s.mode := rfl
@[simp] theorem State.accept_tcnt (s : State) : (s.accept).tcnt = s.tcnt := rfl
@[simp] theorem State.accept_btnPrev (s : State) : (s.accept).btnPrev = s.btnPrev := rfl
@[simp] theorem State.accept_rb (s : State) : (s.accept).rb = s.rb := rfl
@[simp] theorem State.accept_rp (s : State) : (s.accept).rp = s.rp := rfl
@[simp] theorem State.accept_lines (s : State) : (s.accept).lines = s.lines := rfl
@[simp] theorem State.accept_fault (s : State) : (s.accept).fault = s.fault := rfl
@[simp] theorem State.accept_rst (s : State) : (s.accept).rst = s.rst := rfl
@[simp] theorem State.accept_pending (s : State) : (s.accept).pending = if s.cfg.autorun then s.pending else s.pending.tail := rfl
@[simp] theorem State.accept_draws (s : State) : (s.accept).draws = s.draws := rfl
@[simp] theorem State.accept_drawCount (s : State) : (s.accept).drawCount = s.drawCount := rfl
@[simp] theorem State.accept_rsp (s : State) : (s.accept).rsp = none := rfl
@[simp] theorem State.accept_done (s : State) : (s.accept).done = !s.cfg.autorun := rfl
@[simp] theorem State.accept_trace (s : State) : (s.accept).trace = s.trace := rfl

/-! ### `State.idle` -/

@[simp] theorem State.idle_cfg (s : State) : (s.idle).cfg = s.cfg := rfl
@[simp] theorem State.idle_pb (s : State) : (s.idle).pb = s.pb := rfl
@[simp] theorem State.idle_mode (s : State) : (s.idle).mode = s.mode := rfl
@[simp] theorem State.idle_tcnt (s : State) : (s.idle).tcnt = s.tcnt := rfl
@[simp] theorem State.idle_btnPrev (s : State) : (s.idle).btnPrev = s.btnPrev := rfl
@[simp] theorem State.idle_rb (s : State) : (s.idle).rb = s.rb := rfl
@[simp] theorem State.idle_rp (s : State) : (s.idle).rp = s.rp := rfl
@[simp] theorem State.idle_lines (s : State) : (s.idle).lines = s.lines := rfl
@[simp] theorem State.idle_fault (s : State) : (s.idle).fault = s.fault := rfl
@[simp] theorem State.idle_rst (s : State) : (s.idle).rst = s.rst := rfl
@[simp] theorem State.idle_pending (s : State) : (s.idle).pending = s.pending := rfl
@[simp] theorem State.idle_draws (s : State) : (s.idle).draws = s.draws := rfl
@[simp] theorem State.idle_drawCount (s : State) : (s.idle).drawCount = s.drawCount := rfl
@[simp] theorem State.idle_rsp (s : State) : (s.idle).rsp = none := rfl
@[simp] theorem State.idle_done (s : State) : (s.idle).done = false := rfl
@[simp] theorem State.idle_trace (s : State) : (s.idle).trace = s.trace := rfl

/-! ### `State.resetOf` (R220) -/

@[simp] theorem State.resetOf_cfg (c : Config) : (State.resetOf c).cfg = c := rfl
@[simp] theorem State.resetOf_pb (c : Config) : (State.resetOf c).pb = [] := rfl
@[simp] theorem State.resetOf_mode (c : Config) : (State.resetOf c).mode = 0 := rfl
@[simp] theorem State.resetOf_tcnt (c : Config) : (State.resetOf c).tcnt = 0 := rfl
@[simp] theorem State.resetOf_btnPrev (c : Config) : (State.resetOf c).btnPrev = 0 := rfl
@[simp] theorem State.resetOf_rb (c : Config) : (State.resetOf c).rb = { sub := 0, step := 0, seed := { r := 0, g := 0, b := 0 } } := rfl
@[simp] theorem State.resetOf_rp (c : Config) : (State.resetOf c).rp = { cnt := 0, pos := 0, cyc := 0 } := rfl
@[simp] theorem State.resetOf_lines (c : Config) : (State.resetOf c).lines = { sclk := false, sdata := false } := rfl
@[simp] theorem State.resetOf_fault (c : Config) : (State.resetOf c).fault = .noFault := rfl
@[simp] theorem State.resetOf_rst (c : Config) : (State.resetOf c).rst = .low := rfl
@[simp] theorem State.resetOf_pending (c : Config) : (State.resetOf c).pending = [] := rfl
@[simp] theorem State.resetOf_draws (c : Config) : (State.resetOf c).draws = [] := rfl
@[simp] theorem State.resetOf_drawCount (c : Config) : (State.resetOf c).drawCount = 0 := rfl
@[simp] theorem State.resetOf_rsp (c : Config) : (State.resetOf c).rsp = none := rfl
@[simp] theorem State.resetOf_done (c : Config) : (State.resetOf c).done = false := rfl
@[simp] theorem State.resetOf_trace (c : Config) : (State.resetOf c).trace = [] := rfl

/-! ### `State.applyReset` (R220) -/

@[simp] theorem State.applyReset_cfg (s : State) : s.applyReset.cfg = s.cfg := rfl
@[simp] theorem State.applyReset_pb (s : State) : s.applyReset.pb = [] := rfl
@[simp] theorem State.applyReset_mode (s : State) : s.applyReset.mode = 0 := rfl
@[simp] theorem State.applyReset_tcnt (s : State) : s.applyReset.tcnt = 0 := rfl
@[simp] theorem State.applyReset_btnPrev (s : State) : s.applyReset.btnPrev = 0 := rfl
@[simp] theorem State.applyReset_rb (s : State) : s.applyReset.rb = { sub := 0, step := 0, seed := { r := 0, g := 0, b := 0 } } := rfl
@[simp] theorem State.applyReset_rp (s : State) : s.applyReset.rp = { cnt := 0, pos := 0, cyc := 0 } := rfl
@[simp] theorem State.applyReset_lines (s : State) : s.applyReset.lines = { sclk := false, sdata := false } := rfl
@[simp] theorem State.applyReset_fault (s : State) : s.applyReset.fault = .noFault := rfl
@[simp] theorem State.applyReset_rst (s : State) : s.applyReset.rst = .low := rfl
@[simp] theorem State.applyReset_pending (s : State) : s.applyReset.pending = s.pending := rfl
@[simp] theorem State.applyReset_draws (s : State) : s.applyReset.draws = s.draws := rfl
@[simp] theorem State.applyReset_drawCount (s : State) : s.applyReset.drawCount = s.drawCount := rfl
@[simp] theorem State.applyReset_rsp (s : State) : s.applyReset.rsp = none := rfl
@[simp] theorem State.applyReset_done (s : State) : s.applyReset.done = false := rfl
@[simp] theorem State.applyReset_trace (s : State) : s.applyReset.trace = s.trace := rfl

/-! ### `State.abandon` (R220) -/

@[simp] theorem State.abandon_cfg (s : State) (k : Nat) (o : Host.Outcome State Fault Refusal) :
    (s.abandon k o).cfg = s.cfg := rfl
@[simp] theorem State.abandon_pb (s : State) (k : Nat) (o : Host.Outcome State Fault Refusal) :
    (s.abandon k o).pb = [] := rfl
@[simp] theorem State.abandon_mode (s : State) (k : Nat) (o : Host.Outcome State Fault Refusal) :
    (s.abandon k o).mode = 0 := rfl
@[simp] theorem State.abandon_tcnt (s : State) (k : Nat) (o : Host.Outcome State Fault Refusal) :
    (s.abandon k o).tcnt = 0 := rfl
@[simp] theorem State.abandon_btnPrev (s : State) (k : Nat) (o : Host.Outcome State Fault Refusal) :
    (s.abandon k o).btnPrev = 0 := rfl
@[simp] theorem State.abandon_rb (s : State) (k : Nat) (o : Host.Outcome State Fault Refusal) :
    (s.abandon k o).rb = { sub := 0, step := 0, seed := { r := 0, g := 0, b := 0 } } := rfl
@[simp] theorem State.abandon_rp (s : State) (k : Nat) (o : Host.Outcome State Fault Refusal) :
    (s.abandon k o).rp = { cnt := 0, pos := 0, cyc := 0 } := rfl
@[simp] theorem State.abandon_lines (s : State) (k : Nat) (o : Host.Outcome State Fault Refusal) :
    (s.abandon k o).lines = { sclk := false, sdata := false } := rfl
@[simp] theorem State.abandon_fault (s : State) (k : Nat) (o : Host.Outcome State Fault Refusal) :
    (s.abandon k o).fault = .noFault := rfl
@[simp] theorem State.abandon_rst (s : State) (k : Nat) (o : Host.Outcome State Fault Refusal) :
    (s.abandon k o).rst = .low := rfl
@[simp] theorem State.abandon_pending (s : State) (k : Nat) (o : Host.Outcome State Fault Refusal) :
    (s.abandon k o).pending = s.pendingAfter o := rfl
@[simp] theorem State.abandon_draws (s : State) (k : Nat) (o : Host.Outcome State Fault Refusal) :
    (s.abandon k o).draws = s.draws.drop (countDraws ((s.newEntries o).take k)) := rfl
@[simp] theorem State.abandon_drawCount (s : State) (k : Nat) (o : Host.Outcome State Fault Refusal) :
    (s.abandon k o).drawCount = s.drawCount + countDraws ((s.newEntries o).take k) := rfl
@[simp] theorem State.abandon_rsp (s : State) (k : Nat) (o : Host.Outcome State Fault Refusal) :
    (s.abandon k o).rsp = none := rfl
@[simp] theorem State.abandon_done (s : State) (k : Nat) (o : Host.Outcome State Fault Refusal) :
    (s.abandon k o).done = false := rfl
@[simp] theorem State.abandon_trace (s : State) (k : Nat) (o : Host.Outcome State Fault Refusal) :
    (s.abandon k o).trace = s.trace ++ (s.newEntries o).take k := rfl

/-! ### Samples -/

/-- The next sample depends on nothing but the fixed samples and the count of those taken. -/
theorem State.nextDraw_congr {s t : State} (h1 : t.draws = s.draws) (h2 : t.drawCount = s.drawCount) :
    t.nextDraw = s.nextDraw := by
  unfold State.nextDraw; rw [h1, h2]

/-- A sample the environment has fixed is the one read. -/
theorem State.nextDraw_cons {s : State} {b : Buttons} {bs : List Buttons} (h : s.draws = b :: bs) : s.nextDraw = b := by
  unfold State.nextDraw; rw [h]

@[simp] theorem State.setPb_nextDraw (s : State) (m : Memory) : (s.setPb m).nextDraw = s.nextDraw := rfl
@[simp] theorem State.setMode_nextDraw (s : State) (m : Fin 6) : (s.setMode m).nextDraw = s.nextDraw := rfl
@[simp] theorem State.setTcnt_nextDraw (s : State) (t : BitVec 16) : (s.setTcnt t).nextDraw = s.nextDraw := rfl
@[simp] theorem State.setBtnPrev_nextDraw (s : State) (b : Buttons) : (s.setBtnPrev b).nextDraw = s.nextDraw := rfl
@[simp] theorem State.setRb_nextDraw (s : State) (x : RainbowRegs) : (s.setRb x).nextDraw = s.nextDraw := rfl
@[simp] theorem State.setRp_nextDraw (s : State) (x : RollptRegs) : (s.setRp x).nextDraw = s.nextDraw := rfl
@[simp] theorem State.setLines_nextDraw (s : State) (l : Lines) : (s.setLines l).nextDraw = s.nextDraw := rfl
@[simp] theorem State.emit_nextDraw (s : State) (es : List Event) : (s.emit es).nextDraw = s.nextDraw := rfl
@[simp] theorem State.respond_nextDraw (s : State) (v : Byte) : (s.respond v).nextDraw = s.nextDraw := rfl
@[simp] theorem State.raiseFault_nextDraw (s : State) (code : FaultCode) : (s.raiseFault code).nextDraw = s.nextDraw := rfl
@[simp] theorem State.accept_nextDraw (s : State) : (s.accept).nextDraw = s.nextDraw := rfl
@[simp] theorem State.idle_nextDraw (s : State) : (s.idle).nextDraw = s.nextDraw := rfl

end Sys2Proof.Machine
end

