-- ==== Sys2Proof/Laws/Transmitter.lean ====
section
/-! SUPPORT. What sending bits does to the lines and which events it emits (R130, R133), and what the views of the observation make of
it. -/

namespace Sys2Proof.Machine

/-- The three events of one bit (R130). -/
def bitEvents (b : Bool) : List Event := [.data b, .clk true, .clk false]

/-- Sending bits emits the three events of each, in order. -/
theorem sendBits_events : ∀ (bs : List Bool) (l : Lines), (sendBits bs l).2 = bs.flatMap bitEvents
  | [], _ => rfl
  | b :: bs, l => by simp only [sendBits, driveBit, sendBits_events bs, List.flatMap_cons, bitEvents]

/-- After sending bits SDATA holds the last of them, and SCLK is 0 if there was one or if it was 0 before (R133). -/
theorem sendBits_lines : ∀ (bs : List Bool) (l : Lines), (sendBits bs l).1 =
    { sclk := if bs = [] then l.sclk else false, sdata := bs.getLastD l.sdata }
  | [], _ => rfl
  | b :: bs, l => by
    simp only [sendBits, driveBit, sendBits_lines bs, List.getLastD_cons]
    cases bs <;> rfl

@[simp] theorem byteBits_length (v : Byte) : (byteBits v).length = 8 := rfl

/-- A receiver samples exactly the bits sent, whatever the line held before and whatever follows them (R132). -/
theorem sampledBits_bitEvents_append (bs : List Bool) (d : Bool) (es : List Event) :
    sampledBits d (bs.flatMap bitEvents ++ es) = bs ++ sampledBits (bs.getLastD d) es := by
  induction bs generalizing d with
  | nil => rfl
  | cons b bs ih =>
    simp only [List.flatMap_cons, bitEvents, List.cons_append, List.nil_append, sampledBits]
    rw [ih, List.getLastD_cons]

/-- The Pace events of two pieces of an observation are those of the first, then those of the second. -/
theorem paces_append : ∀ es fs : List Event, paces (es ++ fs) = paces es ++ paces fs
  | [], _ => rfl
  | e :: es, fs => by cases e <;> simp [paces, paces_append es fs]

/-- Line events hold no Pace. -/
@[simp] theorem paces_bitEvents (bs : List Bool) : paces (bs.flatMap bitEvents) = [] := by
  induction bs with
  | nil => rfl
  | cons b bs ih => simp [bitEvents, paces, ih]

/-- The responses of two pieces of an observation are those of the first, then those of the second. -/
theorem responses_append : ∀ es fs : List Event, responses (es ++ fs) = responses es ++ responses fs
  | [], _ => rfl
  | e :: es, fs => by cases e <;> simp [responses, responses_append es fs]

/-- Line events hold no response. -/
@[simp] theorem responses_bitEvents (bs : List Bool) : responses (bs.flatMap bitEvents) = [] := by
  induction bs with
  | nil => rfl
  | cons b bs ih => simp [bitEvents, responses, ih]

end Sys2Proof.Machine
end

