-- ==== Sys2Proof/Laws/Commands.lean ====
section
/-! SUPPORT. What each command's effect sets, field by field, and what it leaves: one lemma per field, and one law that says all a BTNPOLL or a
RENDER can do. -/

namespace Sys2Proof.Machine

/-! ### `pbfill v` (R112) -/

@[simp] theorem pbfill_cfg (v : Byte) (s : State) : (pbfill v s).cfg = s.cfg := rfl
@[simp] theorem pbfill_pb (v : Byte) (s : State) : (pbfill v s).pb = updateCells s.cfg.n (fun _ => v) s.pb := rfl
@[simp] theorem pbfill_mode (v : Byte) (s : State) : (pbfill v s).mode = s.mode := rfl
@[simp] theorem pbfill_tcnt (v : Byte) (s : State) : (pbfill v s).tcnt = s.tcnt := rfl
@[simp] theorem pbfill_btnPrev (v : Byte) (s : State) : (pbfill v s).btnPrev = s.btnPrev := rfl
@[simp] theorem pbfill_rb (v : Byte) (s : State) : (pbfill v s).rb = s.rb := rfl
@[simp] theorem pbfill_rp (v : Byte) (s : State) : (pbfill v s).rp = s.rp := rfl
@[simp] theorem pbfill_lines (v : Byte) (s : State) : (pbfill v s).lines = s.lines := rfl
@[simp] theorem pbfill_fault (v : Byte) (s : State) : (pbfill v s).fault = s.fault := rfl
@[simp] theorem pbfill_rst (v : Byte) (s : State) : (pbfill v s).rst = s.rst := rfl
@[simp] theorem pbfill_pending (v : Byte) (s : State) : (pbfill v s).pending = s.pending := rfl
@[simp] theorem pbfill_draws (v : Byte) (s : State) : (pbfill v s).draws = s.draws := rfl
@[simp] theorem pbfill_drawCount (v : Byte) (s : State) : (pbfill v s).drawCount = s.drawCount := rfl
@[simp] theorem pbfill_rsp (v : Byte) (s : State) : (pbfill v s).rsp = s.rsp := rfl
@[simp] theorem pbfill_done (v : Byte) (s : State) : (pbfill v s).done = s.done := rfl
@[simp] theorem pbfill_trace (v : Byte) (s : State) : (pbfill v s).trace = s.trace := rfl

/-! ### `pbdecay d` (R113) -/

@[simp] theorem pbdecay_cfg (d : Byte) (s : State) : (pbdecay d s).cfg = s.cfg := rfl
@[simp] theorem pbdecay_pb (d : Byte) (s : State) : (pbdecay d s).pb = updateCells s.cfg.n (fun v => satsub8 v d) s.pb := rfl
@[simp] theorem pbdecay_mode (d : Byte) (s : State) : (pbdecay d s).mode = s.mode := rfl
@[simp] theorem pbdecay_tcnt (d : Byte) (s : State) : (pbdecay d s).tcnt = s.tcnt := rfl
@[simp] theorem pbdecay_btnPrev (d : Byte) (s : State) : (pbdecay d s).btnPrev = s.btnPrev := rfl
@[simp] theorem pbdecay_rb (d : Byte) (s : State) : (pbdecay d s).rb = s.rb := rfl
@[simp] theorem pbdecay_rp (d : Byte) (s : State) : (pbdecay d s).rp = s.rp := rfl
@[simp] theorem pbdecay_lines (d : Byte) (s : State) : (pbdecay d s).lines = s.lines := rfl
@[simp] theorem pbdecay_fault (d : Byte) (s : State) : (pbdecay d s).fault = s.fault := rfl
@[simp] theorem pbdecay_rst (d : Byte) (s : State) : (pbdecay d s).rst = s.rst := rfl
@[simp] theorem pbdecay_pending (d : Byte) (s : State) : (pbdecay d s).pending = s.pending := rfl
@[simp] theorem pbdecay_draws (d : Byte) (s : State) : (pbdecay d s).draws = s.draws := rfl
@[simp] theorem pbdecay_drawCount (d : Byte) (s : State) : (pbdecay d s).drawCount = s.drawCount := rfl
@[simp] theorem pbdecay_rsp (d : Byte) (s : State) : (pbdecay d s).rsp = s.rsp := rfl
@[simp] theorem pbdecay_done (d : Byte) (s : State) : (pbdecay d s).done = s.done := rfl
@[simp] theorem pbdecay_trace (d : Byte) (s : State) : (pbdecay d s).trace = s.trace := rfl

/-! ### `dim k` (R155) -/

@[simp] theorem dim_cfg (k : Byte) (s : State) : (dim k s).cfg = s.cfg := rfl
@[simp] theorem dim_pb (k : Byte) (s : State) : (dim k s).pb = repeatPass (dimPass s.cfg.n) k.toNat s.pb := rfl
@[simp] theorem dim_mode (k : Byte) (s : State) : (dim k s).mode = s.mode := rfl
@[simp] theorem dim_tcnt (k : Byte) (s : State) : (dim k s).tcnt = s.tcnt := rfl
@[simp] theorem dim_btnPrev (k : Byte) (s : State) : (dim k s).btnPrev = s.btnPrev := rfl
@[simp] theorem dim_rb (k : Byte) (s : State) : (dim k s).rb = s.rb := rfl
@[simp] theorem dim_rp (k : Byte) (s : State) : (dim k s).rp = s.rp := rfl
@[simp] theorem dim_lines (k : Byte) (s : State) : (dim k s).lines = s.lines := rfl
@[simp] theorem dim_fault (k : Byte) (s : State) : (dim k s).fault = s.fault := rfl
@[simp] theorem dim_rst (k : Byte) (s : State) : (dim k s).rst = s.rst := rfl
@[simp] theorem dim_pending (k : Byte) (s : State) : (dim k s).pending = s.pending := rfl
@[simp] theorem dim_draws (k : Byte) (s : State) : (dim k s).draws = s.draws := rfl
@[simp] theorem dim_drawCount (k : Byte) (s : State) : (dim k s).drawCount = s.drawCount := rfl
@[simp] theorem dim_rsp (k : Byte) (s : State) : (dim k s).rsp = s.rsp := rfl
@[simp] theorem dim_done (k : Byte) (s : State) : (dim k s).done = s.done := rfl
@[simp] theorem dim_trace (k : Byte) (s : State) : (dim k s).trace = s.trace := rfl

/-! ### `rainbow` (R142) -/

@[simp] theorem rainbow_cfg (s : State) : (rainbow s).cfg = s.cfg := rfl
@[simp] theorem rainbow_pb (s : State) :
    (rainbow s).pb = rainbowPass s.cfg { col := rainbowSeed s.cfg s.rb, ls := s.rb.step, lm := s.rb.sub } s.pb := rfl
@[simp] theorem rainbow_mode (s : State) : (rainbow s).mode = s.mode := rfl
@[simp] theorem rainbow_tcnt (s : State) : (rainbow s).tcnt = s.tcnt := rfl
@[simp] theorem rainbow_btnPrev (s : State) : (rainbow s).btnPrev = s.btnPrev := rfl
@[simp] theorem rainbow_rb (s : State) : (rainbow s).rb = rainbowRegs s.cfg s.rb := rfl
@[simp] theorem rainbow_rp (s : State) : (rainbow s).rp = s.rp := rfl
@[simp] theorem rainbow_lines (s : State) : (rainbow s).lines = s.lines := rfl
@[simp] theorem rainbow_fault (s : State) : (rainbow s).fault = s.fault := rfl
@[simp] theorem rainbow_rst (s : State) : (rainbow s).rst = s.rst := rfl
@[simp] theorem rainbow_pending (s : State) : (rainbow s).pending = s.pending := rfl
@[simp] theorem rainbow_draws (s : State) : (rainbow s).draws = s.draws := rfl
@[simp] theorem rainbow_drawCount (s : State) : (rainbow s).drawCount = s.drawCount := rfl
@[simp] theorem rainbow_rsp (s : State) : (rainbow s).rsp = s.rsp := rfl
@[simp] theorem rainbow_done (s : State) : (rainbow s).done = s.done := rfl
@[simp] theorem rainbow_trace (s : State) : (rainbow s).trace = s.trace ++ [.pace s.cfg.rbPaceMs] := rfl

/-! ### `rollpt` (R147) -/

@[simp] theorem rollpt_cfg (s : State) : (rollpt s).cfg = s.cfg := rfl
@[simp] theorem rollpt_pb (s : State) :
    (rollpt s).pb = drawComets s.cfg s.rp (rollptRegs s.cfg s.rp) (updateCells s.cfg.n (fun v => satsub8 v s.cfg.rpDecay) s.pb) := rfl
@[simp] theorem rollpt_mode (s : State) : (rollpt s).mode = s.mode := rfl
@[simp] theorem rollpt_tcnt (s : State) : (rollpt s).tcnt = s.tcnt := rfl
@[simp] theorem rollpt_btnPrev (s : State) : (rollpt s).btnPrev = s.btnPrev := rfl
@[simp] theorem rollpt_rb (s : State) : (rollpt s).rb = s.rb := rfl
@[simp] theorem rollpt_rp (s : State) : (rollpt s).rp = rollptRegs s.cfg s.rp := rfl
@[simp] theorem rollpt_lines (s : State) : (rollpt s).lines = s.lines := rfl
@[simp] theorem rollpt_fault (s : State) : (rollpt s).fault = s.fault := rfl
@[simp] theorem rollpt_rst (s : State) : (rollpt s).rst = s.rst := rfl
@[simp] theorem rollpt_pending (s : State) : (rollpt s).pending = s.pending := rfl
@[simp] theorem rollpt_draws (s : State) : (rollpt s).draws = s.draws := rfl
@[simp] theorem rollpt_drawCount (s : State) : (rollpt s).drawCount = s.drawCount := rfl
@[simp] theorem rollpt_rsp (s : State) : (rollpt s).rsp = s.rsp := rfl
@[simp] theorem rollpt_done (s : State) : (rollpt s).done = s.done := rfl
@[simp] theorem rollpt_trace (s : State) : (rollpt s).trace = s.trace ++ [.pace s.cfg.rpPaceMs] := rfl

/-! ### `txframe` (R130) -/

@[simp] theorem txframe_cfg (s : State) : (txframe s).cfg = s.cfg := rfl
@[simp] theorem txframe_pb (s : State) : (txframe s).pb = s.pb := rfl
@[simp] theorem txframe_mode (s : State) : (txframe s).mode = s.mode := rfl
@[simp] theorem txframe_tcnt (s : State) : (txframe s).tcnt = s.tcnt := rfl
@[simp] theorem txframe_btnPrev (s : State) : (txframe s).btnPrev = s.btnPrev := rfl
@[simp] theorem txframe_rb (s : State) : (txframe s).rb = s.rb := rfl
@[simp] theorem txframe_rp (s : State) : (txframe s).rp = s.rp := rfl
@[simp] theorem txframe_lines (s : State) : (txframe s).lines = (sendBits (txBits s.cfg.n s.pb) s.lines).1 := rfl
@[simp] theorem txframe_fault (s : State) : (txframe s).fault = s.fault := rfl
@[simp] theorem txframe_rst (s : State) : (txframe s).rst = s.rst := rfl
@[simp] theorem txframe_pending (s : State) : (txframe s).pending = s.pending := rfl
@[simp] theorem txframe_draws (s : State) : (txframe s).draws = s.draws := rfl
@[simp] theorem txframe_drawCount (s : State) : (txframe s).drawCount = s.drawCount := rfl
@[simp] theorem txframe_rsp (s : State) : (txframe s).rsp = s.rsp := rfl
@[simp] theorem txframe_done (s : State) : (txframe s).done = s.done := rfl
@[simp] theorem txframe_trace (s : State) :
    (txframe s).trace = s.trace ++ ((txBits s.cfg.n s.pb).flatMap bitEvents ++ [.pace s.cfg.txSettleMs]) := by
  simp only [txframe, State.emit_trace, State.setLines_trace, sendBits_events]

/-! ### `btnpoll` (R171) -/

/-- What the second sample of a BTNPOLL reads. -/
def State.secondDraw (s : State) : Buttons := s.takeDraw.nextDraw

/-- Without a rising edge: one sample, stored. -/
theorem btnpoll_no_edge {s : State} (h : risingEdges s.nextDraw s.btnPrev = 0) :
    btnpoll s = s.takeDraw.setBtnPrev s.nextDraw := by
  unfold btnpoll
  rw [if_neg (fun hne => hne h)]

/-- A rising edge that the second sample does not confirm. -/
theorem btnpoll_rejected {s : State} (h : risingEdges s.nextDraw s.btnPrev ≠ 0) (h2 : s.secondDraw = 0) :
    btnpoll s = ((s.takeDraw.setBtnPrev s.nextDraw).emit [.pace s.cfg.debounceMs]).takeDraw := by
  unfold btnpoll debounce
  rw [if_pos h, if_neg (fun hne => hne h2)]
  rfl

/-- A rising edge that the second sample confirms. -/
theorem btnpoll_confirmed {s : State} (h : risingEdges s.nextDraw s.btnPrev ≠ 0) (h2 : s.secondDraw ≠ 0) :
    btnpoll s = (((s.takeDraw.setBtnPrev s.nextDraw).emit [.pace s.cfg.debounceMs]).takeDraw).setMode (nextMode s.mode) := by
  unfold btnpoll debounce
  rw [if_pos h]
  exact if_pos h2

/-- All that a BTNPOLL can do. -/
theorem btnpoll_cases (s : State) :
    (risingEdges s.nextDraw s.btnPrev = 0 ∧ btnpoll s = s.takeDraw.setBtnPrev s.nextDraw) ∨
    (risingEdges s.nextDraw s.btnPrev ≠ 0 ∧ s.secondDraw = 0 ∧
      btnpoll s = ((s.takeDraw.setBtnPrev s.nextDraw).emit [.pace s.cfg.debounceMs]).takeDraw) ∨
    (risingEdges s.nextDraw s.btnPrev ≠ 0 ∧ s.secondDraw ≠ 0 ∧
      btnpoll s = (((s.takeDraw.setBtnPrev s.nextDraw).emit [.pace s.cfg.debounceMs]).takeDraw).setMode (nextMode s.mode)) := by
  by_cases h : risingEdges s.nextDraw s.btnPrev = 0
  · exact .inl ⟨h, btnpoll_no_edge h⟩
  · by_cases h2 : s.secondDraw = 0
    · exact .inr (.inl ⟨h, h2, btnpoll_rejected h h2⟩)
    · exact .inr (.inr ⟨h, h2, btnpoll_confirmed h h2⟩)

/-! ### `render` (R173) -/

/-- All that the generator part of a RENDER can do. -/
theorem renderMode_cases (s : State) :
    (s.mode = 0 ∧ s.tcnt.toNat < s.cfg.tRoll ∧ renderMode s = rollpt s) ∨
    (s.mode = 0 ∧ s.cfg.tRoll ≤ s.tcnt.toNat ∧ renderMode s = rainbow s) ∨
    (s.mode = 1 ∧ s.tcnt.toNat < s.cfg.tRoll ∧ renderMode s = dim s.cfg.dimKMode1 (rollpt s)) ∨
    (s.mode = 1 ∧ s.cfg.tRoll ≤ s.tcnt.toNat ∧ renderMode s = dim s.cfg.dimKMode1 (rainbow s)) ∨
    (s.mode = 2 ∧ renderMode s = pbfill s.cfg.solidLevel2 s) ∨ (s.mode = 3 ∧ renderMode s = pbfill s.cfg.solidLevel3 s) ∨
    (s.mode = 4 ∧ renderMode s = pbfill s.cfg.solidLevel4 s) ∨ (s.mode = 5 ∧ renderMode s = pbfill s.cfg.solidLevel5 s) := by
  have hm : s.mode = 0 ∨ s.mode = 1 ∨ s.mode = 2 ∨ s.mode = 3 ∨ s.mode = 4 ∨ s.mode = 5 := by
    generalize s.mode = m
    revert m; decide
  rcases Nat.lt_or_ge s.tcnt.toNat s.cfg.tRoll with ht | ht <;> rcases hm with h | h | h | h | h | h <;>
    simp [renderMode, rotation, h, ht, Nat.not_lt.mpr, Nat.not_le.mpr]

/-! ### Debug registers (R190) -/

/-- All that a debug register write can do: raise a fault and nothing else, or replace one register's group. -/
theorem writeDebug_cases (s : State) (v : Byte) (r : DebugReg) :
    (∃ code, writeDebug s v r = s.raiseFault code) ∨ (∃ m, r = .mode ∧ writeDebug s v r = s.setMode m) ∨
    (∃ t, t.toNat < s.cfg.tPeriod ∧ writeDebug s v r = s.setTcnt t) ∨ (∃ b, writeDebug s v r = s.setBtnPrev b) ∨
    (∃ x, writeDebug s v r = s.setRb x) ∨
    (∃ x, (x.pos = s.rp.pos ∨ x.pos.toNat < s.cfg.n) ∧ writeDebug s v r = s.setRp x) := by
  cases r <;> simp only [writeDebug, writeTcnt]
  case mode =>
    split
    · exact .inr (.inl ⟨_, trivial, rfl⟩)
    · exact .inl ⟨_, rfl⟩
  case tcntLo =>
    split
    · exact .inl ⟨_, rfl⟩
    · exact .inr (.inr (.inl ⟨_, by omega, rfl⟩))
  case tcntHi =>
    split
    · exact .inl ⟨_, rfl⟩
    · exact .inr (.inr (.inl ⟨_, by omega, rfl⟩))
  case btnPrev =>
    split
    · exact .inl ⟨_, rfl⟩
    · exact .inr (.inr (.inr (.inl ⟨_, rfl⟩)))
  case rbSub =>
    split
    · exact .inl ⟨_, rfl⟩
    · exact .inr (.inr (.inr (.inr (.inl ⟨_, rfl⟩))))
  case rpPos =>
    split
    · exact .inl ⟨_, rfl⟩
    · exact .inr (.inr (.inr (.inr (.inr ⟨_, .inr (by simp only; omega), rfl⟩))))
  case rpCyc =>
    split
    · next h => exact .inr (.inr (.inr (.inr (.inr ⟨{ s.rp with cyc := ⟨v.toNat, h⟩ }, .inl rfl, rfl⟩))))
    · exact .inl ⟨_, rfl⟩
  case rpCnt => exact .inr (.inr (.inr (.inr (.inr ⟨{ s.rp with cnt := v }, .inl rfl, rfl⟩))))
  case lines => exact .inl ⟨_, rfl⟩
  all_goals exact .inr (.inr (.inr (.inr (.inl ⟨_, rfl⟩))))

end Sys2Proof.Machine
end

