-- ==== Sys2Proof/Laws/Decode.lean ====
section
/-! SUPPORT. The fields of an assembled word (R82 to R86), and what each mask of R88 says of a word's reserved fields. -/

namespace Sys2Proof

/-! ## Fields of assembled words -/

@[simp] theorem opField_encodeZ (op : BitVec 4) : opField (encodeZ op) = op := by
  apply BitVec.eq_of_getLsbD_eq; intro i hi
  interval_cases i <;> simp [opField, encodeZ, placeField]

@[simp] theorem opField_encodeI (op : BitVec 4) (imm : Byte) : opField (encodeI op imm) = op := by
  apply BitVec.eq_of_getLsbD_eq; intro i hi
  interval_cases i <;> simp [opField, encodeI, placeField]

@[simp] theorem opField_encodeP (op : BitVec 4) (idx imm : Byte) (ch : Channel) : opField (encodeP op idx ch imm) = op := by
  apply BitVec.eq_of_getLsbD_eq; intro i hi
  interval_cases i <;> simp [opField, encodeP, placeField]

@[simp] theorem opField_encodeC (op : BitVec 4) (reg imm : Byte) : opField (encodeC op reg imm) = op := by
  apply BitVec.eq_of_getLsbD_eq; intro i hi
  interval_cases i <;> simp [opField, encodeC, placeField]

@[simp] theorem immField_encodeI (op : BitVec 4) (imm : Byte) : immField (encodeI op imm) = imm := by
  apply BitVec.eq_of_getLsbD_eq; intro i hi
  interval_cases i <;> simp [immField, encodeI, placeField]

@[simp] theorem immField_encodeP (op : BitVec 4) (idx imm : Byte) (ch : Channel) : immField (encodeP op idx ch imm) = imm := by
  apply BitVec.eq_of_getLsbD_eq; intro i hi
  interval_cases i <;> simp [immField, encodeP, placeField]

@[simp] theorem immField_encodeC (op : BitVec 4) (reg imm : Byte) : immField (encodeC op reg imm) = imm := by
  apply BitVec.eq_of_getLsbD_eq; intro i hi
  interval_cases i <;> simp [immField, encodeC, placeField]

@[simp] theorem idxField_encodeP (op : BitVec 4) (idx imm : Byte) (ch : Channel) : idxField (encodeP op idx ch imm) = idx := by
  apply BitVec.eq_of_getLsbD_eq; intro i hi
  interval_cases i <;> simp [idxField, encodeP, placeField]

@[simp] theorem idxField_encodeC (op : BitVec 4) (reg imm : Byte) : idxField (encodeC op reg imm) = reg := by
  apply BitVec.eq_of_getLsbD_eq; intro i hi
  interval_cases i <;> simp [idxField, encodeC, placeField]

@[simp] theorem chField_encodeP (op : BitVec 4) (idx imm : Byte) (ch : Channel) : chField (encodeP op idx ch imm) = ch.code := by
  apply BitVec.eq_of_getLsbD_eq; intro i hi
  interval_cases i <;> simp [chField, encodeP, placeField]

@[simp] theorem Channel.ofField_code (ch : Channel) : Channel.ofField ch.code = some ch := by cases ch <;> rfl

/-! ## The rows of R88 -/

/-- The opcode's number, as R87 lists it. -/
def Opcode.number : Opcode → BitVec 4
  | .nop => 0x0
  | .pbrd => 0x1
  | .pbwr => 0x2
  | .pbfill => 0x3
  | .pbdecay => 0x4
  | .dim => 0x5
  | .rainbow => 0x6
  | .rollpt => 0x7
  | .txframe => 0x8
  | .btnpoll => 0x9
  | .render => 0xA
  | .frame => 0xB
  | .csrrd => 0xC
  | .csrwr => 0xD

theorem Opcode.ofField_number (o : Opcode) : Opcode.ofField o.number = some o := by cases o <;> rfl

theorem Opcode.ofField_eq_some : ∀ (op : BitVec 4) (o : Opcode), Opcode.ofField op = some o → o.number = op := by
  decide

theorem Opcode.matchWord_eq (o : Opcode) : o.matchWord = placeField o.number 28 := by cases o <;> rfl

/-- A word that a row matches has that row's opcode. -/
theorem opField_of_match {w : CmdWord} {o : Opcode} (h : w &&& o.mask = o.matchWord) : opField w = o.number := by
  have h1 : opField (w &&& o.mask) = opField w := by
    apply BitVec.eq_of_getLsbD_eq; intro i hi
    cases o <;> (interval_cases i <;> simp [opField, Opcode.mask])
  rw [← h1, h]
  cases o <;> rfl

/-- No word matches two rows (R89). -/
theorem Opcode.row_unique {w : CmdWord} {o o' : Opcode} (h : w &&& o.mask = o.matchWord)
    (h' : w &&& o'.mask = o'.matchWord) : o = o' := by
  have hn : o.number = o'.number := (opField_of_match h).symm.trans (opField_of_match h')
  have := Opcode.ofField_number o
  rw [hn, Opcode.ofField_number] at this
  exact (Option.some.inj this).symm

/-- Where a field is 0 each of its bits is. -/
theorem bit_of_field_zero {w : CmdWord} {lo len : Nat} (h : w.extractLsb' lo len = 0) (i : Nat) (h1 : lo ≤ i)
    (h2 : i < lo + len) : w.getLsbD i = false := by
  have hb := congrArg (fun x => BitVec.getLsbD x (i - lo)) h
  have e : lo + (i - lo) = i := by omega
  simpa [BitVec.getLsbD_extractLsb', e, show i - lo < len by omega] using hb

/-- The mask of a format Z row asks for 27:0 to be 0. -/
theorem mask_Z_iff (w : CmdWord) : w &&& 0xFFFFFFFF = placeField (opField w) 28 ↔ w.extractLsb' 0 28 = 0 := by
  constructor
  · intro h
    apply BitVec.eq_of_getLsbD_eq; intro i hi
    have := congrArg (fun x => BitVec.getLsbD x i) h
    interval_cases i <;> simpa [placeField] using this
  · intro h
    apply BitVec.eq_of_getLsbD_eq; intro i hi
    have b := bit_of_field_zero h i
    clear h
    interval_cases i <;> simp_all [placeField, opField]

/-- The mask of a format I row asks for 27:8 to be 0. -/
theorem mask_I_iff (w : CmdWord) : w &&& 0xFFFFFF00 = placeField (opField w) 28 ↔ w.extractLsb' 8 20 = 0 := by
  constructor
  · intro h
    apply BitVec.eq_of_getLsbD_eq; intro i hi
    have := congrArg (fun x => BitVec.getLsbD x (8 + i)) h
    interval_cases i <;> simpa [placeField] using this
  · intro h
    apply BitVec.eq_of_getLsbD_eq; intro i hi
    have b := bit_of_field_zero h i
    clear h
    interval_cases i <;> simp_all [placeField, opField]

/-- PBWR's mask asks for 27:26 and 15:8 to be 0. -/
theorem mask_pbwr_iff (w : CmdWord) :
    w &&& 0xFC00FF00 = placeField (opField w) 28 ↔ w.extractLsb' 26 2 = 0 ∧ w.extractLsb' 8 8 = 0 := by
  constructor
  · intro h
    constructor
    · apply BitVec.eq_of_getLsbD_eq; intro i hi
      have := congrArg (fun x => BitVec.getLsbD x (26 + i)) h
      interval_cases i <;> simpa [placeField] using this
    · apply BitVec.eq_of_getLsbD_eq; intro i hi
      have := congrArg (fun x => BitVec.getLsbD x (8 + i)) h
      interval_cases i <;> simpa [placeField] using this
  · rintro ⟨h, h'⟩
    apply BitVec.eq_of_getLsbD_eq; intro i hi
    have b := bit_of_field_zero h i
    have b' := bit_of_field_zero h' i
    clear h h'
    interval_cases i <;> simp_all [placeField, opField]

/-- PBRD's mask asks for 27:26 and 15:0 to be 0. -/
theorem mask_pbrd_iff (w : CmdWord) :
    w &&& 0xFC00FFFF = placeField (opField w) 28 ↔ w.extractLsb' 26 2 = 0 ∧ w.extractLsb' 0 16 = 0 := by
  constructor
  · intro h
    constructor
    · apply BitVec.eq_of_getLsbD_eq; intro i hi
      have := congrArg (fun x => BitVec.getLsbD x (26 + i)) h
      interval_cases i <;> simpa [placeField] using this
    · apply BitVec.eq_of_getLsbD_eq; intro i hi
      have := congrArg (fun x => BitVec.getLsbD x i) h
      interval_cases i <;> simpa [placeField] using this
  · rintro ⟨h, h'⟩
    apply BitVec.eq_of_getLsbD_eq; intro i hi
    have b := bit_of_field_zero h i
    have b' := bit_of_field_zero h' i
    clear h h'
    interval_cases i <;> simp_all [placeField, opField]

/-- CSRWR's mask asks for 27:24 and 15:8 to be 0. -/
theorem mask_csrwr_iff (w : CmdWord) :
    w &&& 0xFF00FF00 = placeField (opField w) 28 ↔ w.extractLsb' 24 4 = 0 ∧ w.extractLsb' 8 8 = 0 := by
  constructor
  · intro h
    constructor
    · apply BitVec.eq_of_getLsbD_eq; intro i hi
      have := congrArg (fun x => BitVec.getLsbD x (24 + i)) h
      interval_cases i <;> simpa [placeField] using this
    · apply BitVec.eq_of_getLsbD_eq; intro i hi
      have := congrArg (fun x => BitVec.getLsbD x (8 + i)) h
      interval_cases i <;> simpa [placeField] using this
  · rintro ⟨h, h'⟩
    apply BitVec.eq_of_getLsbD_eq; intro i hi
    have b := bit_of_field_zero h i
    have b' := bit_of_field_zero h' i
    clear h h'
    interval_cases i <;> simp_all [placeField, opField]

/-- CSRRD's mask asks for 27:24 and 15:0 to be 0. -/
theorem mask_csrrd_iff (w : CmdWord) :
    w &&& 0xFF00FFFF = placeField (opField w) 28 ↔ w.extractLsb' 24 4 = 0 ∧ w.extractLsb' 0 16 = 0 := by
  constructor
  · intro h
    constructor
    · apply BitVec.eq_of_getLsbD_eq; intro i hi
      have := congrArg (fun x => BitVec.getLsbD x (24 + i)) h
      interval_cases i <;> simpa [placeField] using this
    · apply BitVec.eq_of_getLsbD_eq; intro i hi
      have := congrArg (fun x => BitVec.getLsbD x i) h
      interval_cases i <;> simpa [placeField] using this
  · rintro ⟨h, h'⟩
    apply BitVec.eq_of_getLsbD_eq; intro i hi
    have b := bit_of_field_zero h i
    have b' := bit_of_field_zero h' i
    clear h h'
    interval_cases i <;> simp_all [placeField, opField]

end Sys2Proof
end

