-- ==== Sys2Proof/Laws/Memory.lean ====
section
/-! SUPPORT. The pixel space: read after write, the canonical form, and that the form makes equal buffers equal data (R65, R67). -/

namespace Sys2Proof.Machine

/-! ## Read and write -/

@[simp] theorem Memory.read_nil (a : Nat) : Memory.read [] a = Memory.background := rfl

theorem Memory.read_cons (k : Nat) (v : Byte) (m : Memory) (a : Nat) :
    Memory.read ((k, v) :: m) a = if a = k then v else Memory.read m a := rfl

/-- Below the first possible address nothing is listed. -/
theorem Memory.read_of_lt : ∀ {m : Memory} {lo a : Nat}, Memory.wfFrom lo m = true → a < lo →
    Memory.read m a = Memory.background
  | [], _, _, _, _ => rfl
  | (k, v) :: m, lo, a, h, ha => by
    simp only [Memory.wfFrom, Bool.and_eq_true, decide_eq_true_eq] at h
    rw [Memory.read_cons, if_neg (by omega)]
    exact Memory.read_of_lt h.2 (by omega)

/-- The canonical form from a later address on is the canonical form from an earlier one. -/
theorem Memory.wfFrom_mono {m : Memory} {lo lo' : Nat} (h : Memory.wfFrom lo' m = true) (hle : lo ≤ lo') :
    Memory.wfFrom lo m = true := by
  cases m with
  | nil => rfl
  | cons c m =>
    simp only [Memory.wfFrom, Bool.and_eq_true, decide_eq_true_eq] at h ⊢
    exact ⟨⟨by omega, h.1.2⟩, h.2⟩

/-- A read after a write gives the value written at its address, and what was there at every other (R65, R67). -/
theorem Memory.read_write : ∀ {m : Memory} {lo : Nat}, Memory.wfFrom lo m = true → ∀ (a : Nat) (v : Byte) (b : Nat),
    Memory.read (Memory.write m a v) b = if b = a then v else Memory.read m b
  | [], _, _, a, v, b => by
    simp only [Memory.write]
    split
    · next h => simp [h]
    · simp [Memory.read_cons]
  | (k, x) :: m, lo, h, a, v, b => by
    have hm := h
    simp only [Memory.wfFrom, Bool.and_eq_true, decide_eq_true_eq] at hm
    simp only [Memory.write]
    split
    · next hlt =>
      split
      · next hv =>
        by_cases hb : b = a
        · rw [if_pos hb, hv, hb]
          exact Memory.read_of_lt (lo := k) (by simp [Memory.wfFrom, hm]) hlt
        · rw [if_neg hb]
      · rw [Memory.read_cons]
    · split
      · next hlt heq =>
        subst heq
        split
        · next hv =>
          by_cases hb : b = a
          · rw [if_pos hb, hv, hb]
            exact Memory.read_of_lt hm.2 (by omega)
          · rw [if_neg hb, Memory.read_cons, if_neg hb]
        · rw [Memory.read_cons, Memory.read_cons]
          by_cases hb : b = a <;> simp [hb]
      · next hlt heq =>
        rw [Memory.read_cons, Memory.read_cons, Memory.read_write hm.2 a v b]
        by_cases hbk : b = k
        · rw [if_pos hbk, if_pos hbk, if_neg (by omega)]
        · rw [if_neg hbk, if_neg hbk]

/-- A write keeps the canonical form. -/
theorem Memory.wfFrom_write : ∀ {m : Memory} {lo : Nat}, Memory.wfFrom lo m = true → ∀ {a : Nat} (v : Byte), lo ≤ a →
    Memory.wfFrom lo (Memory.write m a v) = true
  | [], lo, _, a, v, ha => by
    simp only [Memory.write]
    split
    · rfl
    · next hv => simp [Memory.wfFrom, ha, hv]
  | (k, x) :: m, lo, h, a, v, ha => by
    simp only [Memory.wfFrom, Bool.and_eq_true, decide_eq_true_eq] at h
    simp only [Memory.write]
    split
    · next hlt =>
      split
      · simp [Memory.wfFrom, h]
      · next hv =>
        simp only [Memory.wfFrom, Bool.and_eq_true, decide_eq_true_eq]
        exact ⟨⟨ha, hv⟩, ⟨by omega, h.1.2⟩, h.2⟩
    · split
      · next heq =>
        subst heq
        split
        · exact Memory.wfFrom_mono h.2 (by omega)
        · next hv =>
          simp only [Memory.wfFrom, Bool.and_eq_true, decide_eq_true_eq]
          exact ⟨⟨ha, hv⟩, h.2⟩
      · simp only [Memory.wfFrom, Bool.and_eq_true, decide_eq_true_eq]
        exact ⟨h.1, Memory.wfFrom_write h.2 v (by omega)⟩

/-- What a write leaves listed was listed before or is the byte written. -/
theorem Memory.mem_write : ∀ {m : Memory} {a : Nat} {v : Byte} {p : Host.Cell},
    p ∈ Memory.write m a v → p ∈ m ∨ p = (a, v)
  | [], a, v, p, h => by
    simp only [Memory.write] at h
    split at h <;> simp_all
  | (k, x) :: m, a, v, p, h => by
    simp only [Memory.write] at h
    split at h
    · split at h
      · exact .inl h
      · rcases List.mem_cons.mp h with h | h
        · exact .inr h
        · exact .inl h
    · split at h
      · split at h
        · exact .inl (List.mem_cons_of_mem _ h)
        · rcases List.mem_cons.mp h with h | h
          · exact .inr h
          · exact .inl (List.mem_cons_of_mem _ h)
      · rcases List.mem_cons.mp h with h | h
        · exact .inl (h ▸ List.mem_cons_self)
        · exact (Memory.mem_write h).imp (List.mem_cons_of_mem _) id

theorem Memory.within_iff {m : Memory} {bound : Nat} : Memory.within bound m = true ↔ ∀ p ∈ m, p.1 < bound := by
  simp only [Memory.within, List.all_eq_true, decide_eq_true_eq]

/-- A write below the bound keeps every address below it. -/
theorem Memory.within_write {m : Memory} {bound : Nat} (h : Memory.within bound m = true) {a : Nat} (v : Byte)
    (ha : a < bound) : Memory.within bound (Memory.write m a v) = true := by
  rw [Memory.within_iff] at h ⊢
  intro p hp
  rcases Memory.mem_write hp with hp | rfl
  · exact h p hp
  · exact ha

/-- Two canonical memories that read the same everywhere are the same data. -/
theorem Memory.ext_of_wfFrom : ∀ {m m' : Memory} {lo : Nat}, Memory.wfFrom lo m = true → Memory.wfFrom lo m' = true →
    (∀ a, Memory.read m a = Memory.read m' a) → m = m'
  | [], [], _, _, _, _ => rfl
  | [], (k, v) :: m', lo, _, h', hr => by
    have h := hr k
    simp only [Memory.wfFrom, Bool.and_eq_true, decide_eq_true_eq] at h'
    rw [Memory.read_cons, if_pos rfl, Memory.read_nil] at h
    exact absurd h.symm h'.1.2
  | (k, v) :: m, [], lo, h, _, hr => by
    have h1 := hr k
    simp only [Memory.wfFrom, Bool.and_eq_true, decide_eq_true_eq] at h
    rw [Memory.read_cons, if_pos rfl, Memory.read_nil] at h1
    exact absurd h1 h.1.2
  | (k, v) :: m, (k', v') :: m', lo, h, h', hr => by
    simp only [Memory.wfFrom, Bool.and_eq_true, decide_eq_true_eq] at h h'
    have hk : k = k' := by
      rcases Nat.lt_trichotomy k k' with hlt | heq | hlt
      · have h1 := hr k
        rw [Memory.read_cons, if_pos rfl, Memory.read_cons, if_neg (by omega), Memory.read_of_lt h'.2 (by omega)] at h1
        exact absurd h1 h.1.2
      · exact heq
      · have h1 := hr k'
        rw [Memory.read_cons (k := k'), if_pos rfl, Memory.read_cons, if_neg (by omega), Memory.read_of_lt h.2 (by omega)] at h1
        exact absurd h1.symm h'.1.2
    subst hk
    have hv : v = v' := by
      have h1 := hr k
      rwa [Memory.read_cons, if_pos rfl, Memory.read_cons, if_pos rfl] at h1
    subst hv
    have hm : m = m' := by
      apply Memory.ext_of_wfFrom h.2 h'.2
      intro a
      by_cases ha : a = k
      · rw [ha, Memory.read_of_lt h.2 (by omega), Memory.read_of_lt h'.2 (by omega)]
      · have h1 := hr a
        rwa [Memory.read_cons, if_neg ha, Memory.read_cons, if_neg ha] at h1
    rw [hm]

theorem Memory.ext_of_wf {m m' : Memory} (h : Memory.wf m = true) (h' : Memory.wf m' = true)
    (hr : ∀ a, Memory.read m a = Memory.read m' a) : m = m' :=
  Memory.ext_of_wfFrom h h' hr

/-- Beyond the bound nothing is listed. -/
theorem Memory.read_of_within : ∀ {m : Memory} {bound a : Nat}, Memory.within bound m = true → bound ≤ a →
    Memory.read m a = Memory.background
  | [], _, _, _, _ => rfl
  | (k, v) :: m, bound, a, h, ha => by
    simp only [Memory.within, List.all_cons, Bool.and_eq_true, decide_eq_true_eq] at h
    rw [Memory.read_cons, if_neg (by omega)]
    exact Memory.read_of_within (by simpa [Memory.within] using h.2) ha

/-! ## Cells -/

theorem channelIndex_lt (c : Channel) : channelIndex c < 3 := by cases c <;> decide

theorem channelIndex_inj {c d : Channel} (h : channelIndex c = channelIndex d) : c = d := by
  revert h; cases c <;> cases d <;> decide

/-- Different cells have different addresses (R61). -/
theorem cellAddr_inj {i j : Nat} {c d : Channel} : cellAddr i c = cellAddr j d ↔ i = j ∧ c = d := by
  constructor
  · intro h
    have := channelIndex_lt c; have := channelIndex_lt d
    unfold cellAddr at h
    have hi : i = j := by omega
    exact ⟨hi, channelIndex_inj (by omega)⟩
  · rintro ⟨rfl, rfl⟩; rfl

/-- A pixel of an `n`-pixel buffer has its cells below `3n` (R61). -/
theorem cellAddr_lt {i n : Nat} (c : Channel) (h : i < n) : cellAddr i c < 3 * n := by
  have := channelIndex_lt c
  unfold cellAddr; omega

/-- Every address below `3n` is a cell of the buffer (R61). -/
theorem exists_cellAddr {n a : Nat} (h : a < 3 * n) : ∃ i c, i < n ∧ cellAddr i c = a := by
  have h3 : a % 3 = 0 ∨ a % 3 = 1 ∨ a % 3 = 2 := by omega
  rcases h3 with h0 | h0 | h0
  · exact ⟨a / 3, .R, by omega, by simp only [cellAddr, channelIndex]; omega⟩
  · exact ⟨a / 3, .G, by omega, by simp only [cellAddr, channelIndex]; omega⟩
  · exact ⟨a / 3, .B, by omega, by simp only [cellAddr, channelIndex]; omega⟩

/-- MemRead after MemWrite (R65). -/
theorem memRead_memWrite {m : Memory} (h : Memory.wf m = true) (i j : Nat) (c d : Channel) (v : Byte) :
    memRead (memWrite m i c v) j d = if j = i ∧ d = c then v else memRead m j d := by
  unfold memRead memWrite
  rw [Memory.read_write h]
  simp only [cellAddr_inj]

theorem Memory.wf_memWrite {m : Memory} (h : Memory.wf m = true) (i : Nat) (c : Channel) (v : Byte) :
    Memory.wf (memWrite m i c v) = true :=
  Memory.wfFrom_write h v (Nat.zero_le _)

theorem Memory.within_memWrite {m : Memory} {n i : Nat} (h : Memory.within (3 * n) m = true) (hi : i < n) (c : Channel)
    (v : Byte) : Memory.within (3 * n) (memWrite m i c v) = true :=
  Memory.within_write h v (cellAddr_lt c hi)

/-- Two canonical `n`-pixel buffers with the same cells are the same data. -/
theorem Memory.ext_of_cells {m m' : Memory} {n : Nat} (h : Memory.wf m = true) (h' : Memory.wf m' = true)
    (hb : Memory.within (3 * n) m = true) (hb' : Memory.within (3 * n) m' = true)
    (hr : ∀ i c, i < n → memRead m i c = memRead m' i c) : m = m' := by
  apply Memory.ext_of_wf h h'
  intro a
  by_cases ha : a < 3 * n
  · obtain ⟨i, c, hi, rfl⟩ := exists_cellAddr ha
    exact hr i c hi
  · rw [Memory.read_of_within hb (by omega), Memory.read_of_within hb' (by omega)]

end Sys2Proof.Machine
end

