-- ==== Sys2Proof/Laws/Passes.lean ====
section
/-! SUPPORT. Every loop over the buffer is a list of cell edits. One law says what a list of edits leaves in each cell, that it keeps the
canonical form, and that it stays inside the buffer; the loops of the commands are instances of it. -/

namespace Sys2Proof.Machine

/-- A cell and what is done to its value. -/
structure CellEdit where
  pixel : Nat
  chan : Channel
  change : Byte → Byte

/-- One edit. -/
def CellEdit.apply (m : Memory) (e : CellEdit) : Memory :=
  memWrite m e.pixel e.chan (e.change (memRead m e.pixel e.chan))

/-- What an edit makes of the value of the cell `(i, c)`. -/
def CellEdit.onCell (i : Nat) (c : Channel) (v : Byte) (e : CellEdit) : Byte :=
  if i = e.pixel ∧ c = e.chan then e.change v else v

theorem wf_foldl_apply : ∀ (es : List CellEdit) {m : Memory}, Memory.wf m = true →
    Memory.wf (es.foldl CellEdit.apply m) = true
  | [], _, h => h
  | e :: es, _, h => wf_foldl_apply es (Memory.wf_memWrite h e.pixel e.chan _)

theorem within_foldl_apply {n : Nat} : ∀ (es : List CellEdit) {m : Memory}, Memory.within (3 * n) m = true →
    (∀ e ∈ es, e.pixel < n) → Memory.within (3 * n) (es.foldl CellEdit.apply m) = true
  | [], _, h, _ => h
  | e :: es, _, h, hp =>
    within_foldl_apply es (Memory.within_memWrite h (hp e List.mem_cons_self) e.chan _)
      (fun e' he' => hp e' (List.mem_cons_of_mem _ he'))

/-- What a list of edits leaves in a cell: the edits of that cell, in order, and nothing else (R65). -/
theorem memRead_foldl_apply : ∀ (es : List CellEdit) {m : Memory}, Memory.wf m = true → ∀ (i : Nat) (c : Channel),
    memRead (es.foldl CellEdit.apply m) i c = es.foldl (CellEdit.onCell i c) (memRead m i c)
  | [], _, _, _, _ => rfl
  | e :: es, m, h, i, c => by
    rw [List.foldl_cons, List.foldl_cons, memRead_foldl_apply es (m := CellEdit.apply m e) (Memory.wf_memWrite h e.pixel e.chan _)]
    congr 1
    rw [CellEdit.apply, memRead_memWrite h, CellEdit.onCell]
    by_cases hc : i = e.pixel ∧ c = e.chan
    · rw [if_pos hc, if_pos hc, hc.1, hc.2]
    · rw [if_neg hc, if_neg hc]

/-- Edits of other cells leave a cell's value. -/
theorem foldl_onCell_of_forall_ne {i : Nat} {c : Channel} : ∀ (es : List CellEdit) (v : Byte),
    (∀ e ∈ es, ¬(i = e.pixel ∧ c = e.chan)) → es.foldl (CellEdit.onCell i c) v = v
  | [], _, _ => rfl
  | e :: es, v, h => by
    rw [List.foldl_cons, CellEdit.onCell, if_neg (h e List.mem_cons_self)]
    exact foldl_onCell_of_forall_ne es v (fun e' he' => h e' (List.mem_cons_of_mem _ he'))

/-! ## Whole-buffer passes -/

theorem mem_pixelCells {n : Nat} {p : Nat × Channel} : p ∈ pixelCells n ↔ p.1 < n := by
  simp only [pixelCells, List.mem_flatMap, List.mem_range, List.mem_map]
  constructor
  · rintro ⟨i, hi, c, _, rfl⟩; exact hi
  · intro h
    exact ⟨p.1, h, p.2, by cases p.2 <;> decide, rfl⟩

theorem nodup_pixelCells (n : Nat) : (pixelCells n).Nodup := by
  rw [pixelCells, List.nodup_flatMap]
  constructor
  · intro i _
    exact List.Nodup.map (fun a b h => by simpa using h) (by decide)
  · apply List.Pairwise.imp _ (List.nodup_range (n := n))
    intro i j hij p hp hq
    simp only [List.mem_map] at hp hq
    obtain ⟨_, _, rfl⟩ := hp
    obtain ⟨_, _, h⟩ := hq
    exact hij (by simpa using congrArg Prod.fst h.symm)

/-- A pass edits each cell once. -/
def passEdits (n : Nat) (f : Byte → Byte) : List CellEdit :=
  (pixelCells n).map (fun p => { pixel := p.1, chan := p.2, change := f })

theorem updateCells_eq_edits (n : Nat) (f : Byte → Byte) (m : Memory) :
    updateCells n f m = (passEdits n f).foldl CellEdit.apply m := by
  simp only [updateCells, passEdits, List.foldl_map, CellEdit.apply]

theorem foldl_onCell_pass {i : Nat} {c : Channel} (f : Byte → Byte) : ∀ (ps : List (Nat × Channel)) (v : Byte), ps.Nodup →
    (ps.map (fun p => ({ pixel := p.1, chan := p.2, change := f } : CellEdit))).foldl (CellEdit.onCell i c) v
      = if (i, c) ∈ ps then f v else v
  | [], _, _ => by simp
  | p :: ps, v, h => by
    rw [List.nodup_cons] at h
    rw [List.map_cons, List.foldl_cons, CellEdit.onCell, foldl_onCell_pass f ps _ h.2]
    by_cases hp : (i, c) = p
    · subst hp; simp [h.1]
    · have hp' : ¬(i = p.1 ∧ c = p.2) := fun h' => hp (Prod.ext h'.1 h'.2)
      simp [hp, hp']

/-- A pass changes every cell of the buffer once, and no other (R112, R113, R155). -/
theorem memRead_updateCells {n : Nat} {m : Memory} (h : Memory.wf m = true) (f : Byte → Byte) (i : Nat) (c : Channel) :
    memRead (updateCells n f m) i c = if i < n then f (memRead m i c) else memRead m i c := by
  rw [updateCells_eq_edits, memRead_foldl_apply _ h, passEdits, foldl_onCell_pass f _ _ (nodup_pixelCells n)]
  simp only [mem_pixelCells]

theorem wf_updateCells {n : Nat} {m : Memory} (h : Memory.wf m = true) (f : Byte → Byte) :
    Memory.wf (updateCells n f m) = true := by
  rw [updateCells_eq_edits]; exact wf_foldl_apply _ h

theorem within_updateCells {n : Nat} {m : Memory} (h : Memory.within (3 * n) m = true) (f : Byte → Byte) :
    Memory.within (3 * n) (updateCells n f m) = true := by
  rw [updateCells_eq_edits]
  apply within_foldl_apply _ h
  intro e he
  simp only [passEdits, List.mem_map] at he
  obtain ⟨p, hp, rfl⟩ := he
  exact mem_pixelCells.mp hp

theorem wf_repeatPass {n : Nat} {f : Byte → Byte} : ∀ (k : Nat) {m : Memory}, Memory.wf m = true →
    Memory.wf (repeatPass (updateCells n f) k m) = true
  | 0, _, h => h
  | k + 1, _, h => wf_repeatPass k (wf_updateCells h f)

theorem within_repeatPass {n : Nat} {f : Byte → Byte} : ∀ (k : Nat) {m : Memory}, Memory.within (3 * n) m = true →
    Memory.within (3 * n) (repeatPass (updateCells n f) k m) = true
  | 0, _, h => h
  | k + 1, _, h => within_repeatPass k (within_updateCells h f)

/-! ## A pixel, a weight, the comets -/

/-- Writing a pixel writes its three channels and nothing else (R142). -/
theorem memRead_writePixel {m : Memory} (h : Memory.wf m = true) (i j : Nat) (col : Colour) (c : Channel) :
    memRead (writePixel m i col) j c = if j = i then Colour.get col c else memRead m j c := by
  have h1 := Memory.wf_memWrite h i .R (Colour.get col .R)
  have h2 := Memory.wf_memWrite h1 i .G (Colour.get col .G)
  simp only [writePixel, channelsRGB, List.foldl_cons, List.foldl_nil]
  rw [memRead_memWrite h2, memRead_memWrite h1, memRead_memWrite h]
  by_cases hj : j = i <;> cases c <;> simp [hj]

theorem wf_writePixel {m : Memory} (h : Memory.wf m = true) (i : Nat) (col : Colour) : Memory.wf (writePixel m i col) = true :=
  Memory.wf_memWrite (Memory.wf_memWrite (Memory.wf_memWrite h i .R _) i .G _) i .B _

theorem within_writePixel {m : Memory} {n i : Nat} (h : Memory.within (3 * n) m = true) (hi : i < n) (col : Colour) :
    Memory.within (3 * n) (writePixel m i col) = true :=
  Memory.within_memWrite (Memory.within_memWrite (Memory.within_memWrite h hi .R _) hi .G _) hi .B _

/-- The edits of one weight on one pixel (R147). -/
def weightEdits (how : CometCombine) (chans : List Channel) (i : Nat) (w : Byte) : List CellEdit :=
  chans.map (fun ch => { pixel := i, chan := ch, change := fun old => combine how old w })

theorem drawWeight_eq_edits (how : CometCombine) (chans : List Channel) (i : Nat) (w : Byte) (m : Memory) :
    drawWeight how chans i w m = (weightEdits how chans i w).foldl CellEdit.apply m := by
  simp only [drawWeight, weightEdits, List.foldl_map, CellEdit.apply]

/-- The edits of one comet (R147). -/
def cometEdits (c : Config) (chans : List Channel) (weights : List Byte) (centre : Nat) : List CellEdit :=
  weights.zipIdx.flatMap (fun wj => weightEdits c.cometCombine chans (cometPixel c.n centre wj.2) wj.1)

theorem drawComet_eq_edits (c : Config) (chans : List Channel) (weights : List Byte) (centre : Nat) (m : Memory) :
    drawComet c chans weights centre m = (cometEdits c chans weights centre).foldl CellEdit.apply m := by
  simp only [drawComet, cometEdits, List.foldl_flatMap, drawWeight_eq_edits]

/-- The edits of step 4 of R147. -/
def drawEdits (c : Config) (old new : RollptRegs) : List CellEdit :=
  (cometCentres c old.pos).flatMap (cometEdits c (chset new.cyc) (cometWeights (high new.cnt)))

theorem drawComets_eq_edits (c : Config) (old new : RollptRegs) (m : Memory) :
    drawComets c old new m = (drawEdits c old new).foldl CellEdit.apply m := by
  simp only [drawComets, drawEdits, List.foldl_flatMap, drawComet_eq_edits]

theorem pixel_lt_of_mem_drawEdits {c : Config} (hn : 0 < c.n) {old new : RollptRegs} {e : CellEdit}
    (he : e ∈ drawEdits c old new) : e.pixel < c.n := by
  simp only [drawEdits, cometEdits, weightEdits, List.mem_flatMap, List.mem_map] at he
  obtain ⟨_, _, _, _, _, _, rfl⟩ := he
  exact pixelMod_lt _ hn

/-! ## The Rainbow pass -/

theorem wf_foldl_rainbowPixel (c : Config) : ∀ (is : List Nat) (x : RainbowCursor) {m : Memory}, Memory.wf m = true →
    Memory.wf (is.foldl (rainbowPixel c) (x, m)).2 = true
  | [], _, _, h => h
  | i :: is, _, _, h => wf_foldl_rainbowPixel c is _ (wf_writePixel h i _)

theorem within_foldl_rainbowPixel (c : Config) : ∀ (is : List Nat) (x : RainbowCursor) {m : Memory},
    Memory.within (3 * c.n) m = true → (∀ i ∈ is, i < c.n) →
    Memory.within (3 * c.n) (is.foldl (rainbowPixel c) (x, m)).2 = true
  | [], _, _, h, _ => h
  | i :: is, _, _, h, hi =>
    within_foldl_rainbowPixel c is _ (within_writePixel h (hi i List.mem_cons_self) _)
      (fun j hj => hi j (List.mem_cons_of_mem _ hj))

theorem wf_rainbowPass {c : Config} {x : RainbowCursor} {m : Memory} (h : Memory.wf m = true) :
    Memory.wf (rainbowPass c x m) = true :=
  wf_foldl_rainbowPixel c _ x h

theorem within_rainbowPass {c : Config} {x : RainbowCursor} {m : Memory} (h : Memory.within (3 * c.n) m = true) :
    Memory.within (3 * c.n) (rainbowPass c x m) = true :=
  within_foldl_rainbowPixel c _ x h (fun _ hi => List.mem_range.mp hi)

end Sys2Proof.Machine
end

