-- ==== Sys2Proof/Laws/PerInstr.lean ====
section
/-! SUPPORT. Per command: its word satisfies its own row of R88. -/

namespace Sys2Proof.Laws

/-- The word of a command, under the mask of its opcode, is the match word (R88). -/
def EncodeMatchesRow.Statement (i : Instr) : Prop := encode i &&& i.opcode.mask = i.opcode.matchWord

theorem EncodeMatchesRow.nop : EncodeMatchesRow.Statement .nop := by
  unfold EncodeMatchesRow.Statement; decide

theorem EncodeMatchesRow.pbrd (idx : Byte) (ch : Channel) : EncodeMatchesRow.Statement (.pbrd idx ch) := by
  apply BitVec.eq_of_getLsbD_eq; intro i hi
  interval_cases i <;> simp [encode, encodeP, placeField, Instr.opcode, Opcode.mask, Opcode.matchWord]

theorem EncodeMatchesRow.pbwr (idx : Byte) (ch : Channel) (value : Byte) : EncodeMatchesRow.Statement (.pbwr idx ch value) := by
  apply BitVec.eq_of_getLsbD_eq; intro i hi
  interval_cases i <;> simp [encode, encodeP, placeField, Instr.opcode, Opcode.mask, Opcode.matchWord]

theorem EncodeMatchesRow.pbfill (value : Byte) : EncodeMatchesRow.Statement (.pbfill value) := by
  apply BitVec.eq_of_getLsbD_eq; intro i hi
  interval_cases i <;> simp [encode, encodeI, placeField, Instr.opcode, Opcode.mask, Opcode.matchWord]

theorem EncodeMatchesRow.pbdecay (delta : Byte) : EncodeMatchesRow.Statement (.pbdecay delta) := by
  apply BitVec.eq_of_getLsbD_eq; intro i hi
  interval_cases i <;> simp [encode, encodeI, placeField, Instr.opcode, Opcode.mask, Opcode.matchWord]

theorem EncodeMatchesRow.dim (k : Byte) : EncodeMatchesRow.Statement (.dim k) := by
  apply BitVec.eq_of_getLsbD_eq; intro i hi
  interval_cases i <;> simp [encode, encodeI, placeField, Instr.opcode, Opcode.mask, Opcode.matchWord]

theorem EncodeMatchesRow.rainbow : EncodeMatchesRow.Statement .rainbow := by
  unfold EncodeMatchesRow.Statement; decide

theorem EncodeMatchesRow.rollpt : EncodeMatchesRow.Statement .rollpt := by
  unfold EncodeMatchesRow.Statement; decide

theorem EncodeMatchesRow.txframe : EncodeMatchesRow.Statement .txframe := by
  unfold EncodeMatchesRow.Statement; decide

theorem EncodeMatchesRow.btnpoll : EncodeMatchesRow.Statement .btnpoll := by
  unfold EncodeMatchesRow.Statement; decide

theorem EncodeMatchesRow.render : EncodeMatchesRow.Statement .render := by
  unfold EncodeMatchesRow.Statement; decide

theorem EncodeMatchesRow.frame : EncodeMatchesRow.Statement .frame := by
  unfold EncodeMatchesRow.Statement; decide

theorem EncodeMatchesRow.csrrd (reg : Byte) : EncodeMatchesRow.Statement (.csrrd reg) := by
  apply BitVec.eq_of_getLsbD_eq; intro i hi
  interval_cases i <;> simp [encode, encodeC, placeField, Instr.opcode, Opcode.mask, Opcode.matchWord]

theorem EncodeMatchesRow.csrwr (reg value : Byte) : EncodeMatchesRow.Statement (.csrwr reg value) := by
  apply BitVec.eq_of_getLsbD_eq; intro i hi
  interval_cases i <;> simp [encode, encodeC, placeField, Instr.opcode, Opcode.mask, Opcode.matchWord]

end Sys2Proof.Laws
end

