-- ==== Sys2Proof/Tests/Slice0.lean ====
section
/-! SUPPORT. The model's own tests: ill-formed terms refused, words written out from the formats, one-step vectors of
95_test_vectors.md, and for each obligation with hypotheses a case that meets them. -/

namespace Sys2Proof.Tests

open Sys2Proof Sys2Proof.Machine

/-! ## Builders -/

/-- A reset block of `n` pixels with the host port open. -/
def block (n : Nat) : State := State.resetOf { Config.ofCount n with autorun := false }

/-- The same state with one word on the port. -/
def offering (s : State) (w : CmdWord) : State := { s with pending := [w] }

/-- The outcome is a next state with the property. -/
def nextSat (o : Host.Outcome State Fault Refusal) (p : State → Bool) : Bool :=
  match o with
  | .next t => p t
  | .fault _ => false
  | .refused _ => false

/-- One pixel as (R, G, B) numbers. -/
def pixel (s : State) (i : Nat) : Nat × Nat × Nat :=
  ((memRead s.pb i .R).toNat, (memRead s.pb i .G).toNat, (memRead s.pb i .B).toNat)

/-- Pixels `from`, `from + 1`, … read as listed. -/
def showsFrom (s : State) (i : Nat) : List (Nat × Nat × Nat) → Bool
  | [] => true
  | p :: ps => decide (pixel s i = p) && showsFrom s (i + 1) ps

/-- Every pixel of the block reads as `p`. -/
def showsAll (s : State) (p : Nat × Nat × Nat) : Bool := (List.range s.cfg.n).all (fun i => decide (pixel s i = p))

/-- `n` pixels filled with `v`. -/
def filled (n : Nat) (v : Byte) : State := (block n).setPb (updateCells n (fun _ => v) [])

/-- The cells 0, 1, 2, … of a state's buffer set to the listed bytes. -/
def withCells (s : State) (vs : List Byte) : State :=
  s.setPb (vs.zipIdx.foldl (fun m x => Memory.write m x.2 x.1) s.pb)

/-! ## Well-formedness: every check refuses an ill-formed term (R8, R140, R92) -/

theorem test_standard_config_legal : Config.standard.legal = true := by decide
theorem test_one_pixel_legal : (Config.ofCount 1).legal = true := by decide
theorem test_256_pixels_legal : (Config.ofCount 256).legal = true := by decide
theorem test_no_pixels_refused : (Config.ofCount 0).legal = false := by decide
theorem test_257_pixels_refused : (Config.ofCount 257).legal = false := by decide
theorem test_zero_call_step_refused : Config.legal { Config.standard with rbCallStep := 0 } = false := by decide
theorem test_zero_pixel_step_refused : Config.legal { Config.standard with rbPixStep := 0 } = false := by decide
theorem test_zero_rollpt_step_refused : Config.legal { Config.standard with rpStep := 0 } = false := by decide
theorem test_offset_at_count_refused : Config.legal { Config.standard with rpOffset := 20 } = false := by decide
theorem test_offset_below_count_legal : Config.legal { Config.standard with rpOffset := 19 } = true := by decide
theorem test_roll_above_period_refused : Config.legal { Config.standard with tRoll := 601 } = false := by decide
theorem test_zero_period_refused : Config.legal { Config.standard with tRoll := 0, tPeriod := 0 } = false := by decide
theorem test_period_above_16_bits_refused : Config.legal { Config.standard with tPeriod := 65536 } = false := by decide
theorem test_period_at_16_bits_legal : Config.legal { Config.standard with tPeriod := 65535 } = true := by decide
theorem test_seven_entries_refused :
    Config.legal { Config.standard with rainbowTable := Config.defaultRainbowTable.tail } = false := by decide
theorem test_empty_entry_refused :
    Config.legal { Config.standard with rainbowTable := [] :: Config.defaultRainbowTable.tail } = false := by decide
theorem test_repeated_channel_refused :
    Config.legal { Config.standard with rainbowTable := [(.R, .up), (.R, .down)] :: Config.defaultRainbowTable.tail } = false := by
  decide
theorem test_three_channel_entry_legal :
    Config.legal { Config.standard with
      rainbowTable := [(.B, .down), (.R, .up), (.G, .down)] :: Config.defaultRainbowTable.tail } = true := by decide
theorem test_line_operand_255_accepted :
    (AsmLine.pbwr 255 .R 255).wellFormed = true ∧ (AsmLine.setpix 255 255 255 255).wellFormed = true := by decide
theorem test_line_operand_256_refused :
    (AsmLine.pbrd 256 .G).wellFormed = false ∧ (AsmLine.pbwr 256 .R 0).wellFormed = false ∧
    (AsmLine.pbwr 0 .R 256).wellFormed = false ∧ (AsmLine.pbfill 256).wellFormed = false ∧
    (AsmLine.pbdecay 256).wellFormed = false ∧ (AsmLine.dim 256).wellFormed = false ∧
    (AsmLine.csrrd 256).wellFormed = false ∧ (AsmLine.csrwr 256 0).wellFormed = false ∧
    (AsmLine.csrwr 0 256).wellFormed = false := by decide
theorem test_pseudo_operand_256_refused :
    (AsmLine.solid 256).wellFormed = false ∧ (AsmLine.setmode 256).wellFormed = false ∧
    (AsmLine.setpix 256 0 0 0).wellFormed = false ∧ (AsmLine.setpix 0 256 0 0).wellFormed = false ∧
    (AsmLine.setpix 0 0 256 0).wellFormed = false ∧ (AsmLine.setpix 0 0 0 256).wellFormed = false := by decide

/-! ## Decoding: words written out from R82 to R85 (op | reserved | ch | idx or reg | imm8) -/

theorem test_decode_nop : decode 0b0000_0000000000000000000000000000 = .ok .nop := by decide
theorem test_decode_pbrd : decode 0b0001_00_10_00010011_00000000_00000000 = .ok (.pbrd 19 .B) := by decide
theorem test_decode_pbwr : decode 0b0010_00_01_00000101_00000000_10000001 = .ok (.pbwr 5 .G 129) := by decide
theorem test_decode_pbfill : decode 0b0011_00000000000000000000_11001000 = .ok (.pbfill 200) := by decide
theorem test_decode_pbdecay : decode 0b0100_00000000000000000000_00000011 = .ok (.pbdecay 3) := by decide
theorem test_decode_dim : decode 0b0101_00000000000000000000_00000001 = .ok (.dim 1) := by decide
theorem test_decode_rainbow : decode 0b0110_0000000000000000000000000000 = .ok .rainbow := by decide
theorem test_decode_rollpt : decode 0b0111_0000000000000000000000000000 = .ok .rollpt := by decide
theorem test_decode_txframe : decode 0b1000_0000000000000000000000000000 = .ok .txframe := by decide
theorem test_decode_btnpoll : decode 0b1001_0000000000000000000000000000 = .ok .btnpoll := by decide
theorem test_decode_render : decode 0b1010_0000000000000000000000000000 = .ok .render := by decide
theorem test_decode_frame : decode 0b1011_0000000000000000000000000000 = .ok .frame := by decide
theorem test_decode_csrrd : decode 0b1100_0000_00001100_00000000_00000000 = .ok (.csrrd 0x0C) := by decide
theorem test_decode_csrwr : decode 0b1101_0000_00000010_00000000_01010111 = .ok (.csrwr 2 0x57) := by decide

/-- The rejected words of 95 §2.9. -/
theorem test_decode_rejections :
    decode 0x00000001 = .error .reservedField ∧ decode 0x10000001 = .error .reservedField ∧
    decode 0x13000000 = .error .illegalChannel ∧ decode 0x14000000 = .error .reservedField ∧
    decode 0x20000100 = .error .reservedField ∧ decode 0x30000100 = .error .reservedField ∧
    decode 0x60800000 = .error .reservedField ∧ decode 0xB0000010 = .error .reservedField ∧
    decode 0xC000000C = .error .reservedField ∧ decode 0xE0000000 = .error .reservedOpcode ∧
    decode 0xF0FFFFFF = .error .reservedOpcode := by decide

theorem test_decode_table_word : decodeTableWord 32 0x2203007F = some (.pbwr 3 .B 127) ∧ decodeTableWord 32 0x13000000 = none := by
  decide

/-- Words of 95 §3 programs P1, P2 and P4, and the match word of FRAME in R88, written by the encoder. -/
theorem test_encode_words :
    encode (.pbwr 1 .B 0xA5) = 0x220100A5 ∧ encode (.csrwr 1 199) = 0xD00100C7 ∧ encode (.pbrd 19 .B) = 0x12130000 ∧
    encode (.dim 1) = 0x50000001 ∧ encode .frame = 0xB0000000 := by decide

/-! ## One step of each command -/

/-- R13 vectors (95 §2.1). -/
theorem test_arithmetic :
    add8 224 32 = 0 ∧ carry8 224 32 = true ∧ add8 250 4 = 254 ∧ carry8 250 4 = false ∧ satsub8 5 3 = 2 ∧ satsub8 0 255 = 0 ∧
    satadd8 250 7 = 255 ∧ cpl8 224 = 31 ∧ shr 127 2 = 31 ∧ shr 200 9 = 0 ∧ high 128 = 127 ∧ high 252 = 3 := by decide

/-- CS11. -/
theorem test_nop : step (offering (block 20) 0x00000000) = .next { block 20 with done := true } := by rfl

/-- PB1 to PB3: only the written channel responds. -/
theorem test_pbrd :
    nextSat (step (offering ((block 20).setPb (memWrite [] 3 .B 127)) 0x12030000)) (fun t => t.rsp = some 127) = true ∧
    nextSat (step (offering ((block 20).setPb (memWrite [] 3 .B 127)) 0x11030000)) (fun t => t.rsp = some 0) = true := by decide

/-- P6: PBRD 20 faults and responds nothing. -/
theorem test_pbrd_bad_index :
    nextSat (step (offering (block 20) 0x10140000)) (fun t => t.faultPort = 2 && t.rsp = none && t.trace = [] && t.done) = true := by
  decide

/-- PB4 and PB5. -/
theorem test_pbwr :
    nextSat (step (offering (block 20) 0x201300FF)) (fun t => t.pb = [(57, 255)] && t.fault = .noFault) = true ∧
    nextSat (step (offering (block 20) 0x20140001)) (fun t => t.pb = [] && t.faultPort = 2 && !t.cmdReady) = true := by decide

/-- PB6, its first command. -/
theorem test_pbfill : nextSat (step (offering (block 20) 0x300000C8)) (fun t => showsAll t (200, 200, 200)) = true := by decide +kernel

/-- PB10. -/
theorem test_pbfill_zero_clears : nextSat (step (offering (filled 20 9) 0x30000000)) (fun t => t.pb = []) = true := by decide +kernel

/-- PB6 and PB7. -/
theorem test_pbdecay :
    nextSat (step (offering (filled 20 200) 0x40000003)) (fun t => showsAll t (197, 197, 197)) = true ∧
    nextSat (step (offering (withCells (block 20) [2, 3, 4]) 0x40000003)) (fun t => pixel t 0 = (0, 0, 1)) = true := by decide +kernel

/-- DM2 and DM4. -/
theorem test_dim :
    nextSat (step (offering (filled 20 255) 0x50000003)) (fun t => showsAll t (31, 31, 31)) = true ∧
    nextSat (step (offering (withCells (block 20) [1, 2, 3]) 0x50000001)) (fun t => pixel t 0 = (0, 1, 1)) = true := by decide +kernel

/-- RB1. -/
theorem test_rainbow_from_reset : nextSat (step (offering (block 20) 0x60000000)) (fun t =>
    showsFrom t 0 [(0, 0, 0), (32, 0, 0), (64, 0, 0)] &&
    showsFrom t 7 [(224, 0, 0), (224, 0, 0), (224, 32, 0)] &&
    showsFrom t 15 [(224, 224, 0), (255, 224, 0), (223, 224, 0), (191, 224, 0), (159, 224, 0)] &&
    t.rb = { sub := 0, step := 32, seed := { r := 0, g := 0, b := 0 } } && t.trace = [.pace 25]) = true := by decide +kernel

/-- RB6: the wrap of RB_SUB, and the default table's last entry. -/
theorem test_rainbow_wraps :
    nextSat (exec .rainbow { block 20 with rb := { sub := 7, step := 224, seed := { r := 224, g := 31, b := 31 } } }) (fun t =>
      showsFrom t 0 [(31, 31, 31), (0, 31, 31), (32, 31, 31)] && showsFrom t 8 [(224, 31, 31), (224, 0, 31)] &&
      t.rb = { sub := 0, step := 0, seed := { r := 31, g := 31, b := 31 } }) = true := by decide +kernel

/-- RP8. -/
theorem test_rollpt_over_fill : nextSat (step (offering (filled 20 200) 0x70000000)) (fun t =>
    pixel t 0 = (4, 4, 4) && pixel t 5 = (197, 197, 197) && pixel t 19 = (1, 1, 1) && t.rp = { cnt := 4, pos := 1, cyc := 0 } &&
    t.trace = [.pace 50]) = true := by decide +kernel

/-- RP10: overlapping comets, N = 4. -/
theorem test_rollpt_overlap : nextSat (exec .rollpt { block 4 with rp := { cnt := 124, pos := 0, cyc := 0 } }) (fun t =>
    showsFrom t 0 [(7, 7, 7), (31, 31, 31), (127, 127, 127), (31, 31, 31)]) = true := by decide +kernel

/-- TX1: the 24 bits B, G, R of one pixel, and the lines left at SCLK = 0, SDATA = 1. -/
theorem test_txframe : nextSat (step (offering (withCells (block 1) [0x01, 0x00, 0x80]) 0x80000000)) (fun t =>
    sampledBits false t.trace =
      [true, false, false, false, false, false, false, false, false, false, false, false, false, false, false, false,
       false, false, false, false, false, false, false, true] &&
    t.trace.length = 73 && t.trace.getLast? = some (.pace 1) && t.sdataPort && !t.sclkPort) = true := by decide +kernel

/-- BT3: MODE 5 advances to 0. BT4: the second sample is 00, and BTNPREV keeps the first. -/
theorem test_btnpoll :
    nextSat (exec .btnpoll { block 1 with mode := 5, draws := [2, 2] }) (fun t =>
      t.mode = 0 && t.btnPrev = 2 && paces t.trace = [50] && t.draws = []) = true ∧
    nextSat (exec .btnpoll { block 1 with mode := 2, draws := [1, 0] }) (fun t =>
      t.mode = 2 && t.btnPrev = 1 && paces t.trace = [50] && t.draws = []) = true := by decide

/-- BT7: another button confirms. BT9: a falling edge takes one sample. -/
theorem test_btnpoll_edges :
    nextSat (exec .btnpoll { block 1 with mode := 3, btnPrev := 2, draws := [1, 2] }) (fun t =>
      t.mode = 4 && t.btnPrev = 1) = true ∧
    nextSat (exec .btnpoll { block 1 with mode := 4, btnPrev := 3, draws := [2, 2] }) (fun t =>
      t.mode = 4 && t.btnPrev = 2 && paces t.trace = [] && t.draws = [2]) = true := by decide

/-- RN6. -/
theorem test_render_mode_one : nextSat (exec .render { block 20 with mode := 1, tcnt := 200 }) (fun t =>
    showsFrom t 0 [(0, 0, 0), (4, 0, 0), (8, 0, 0)] && showsFrom t 16 [(31, 28, 0), (27, 28, 0), (23, 28, 0), (19, 28, 0)] &&
    t.tcnt = 201) = true := by decide +kernel

/-- RN2 and RN9: the last Rollpoints call, and the wrap of TCNT. -/
theorem test_render_hand_over :
    nextSat (exec .render { block 20 with tcnt := 199 }) (fun t => t.rp.cnt = 4 && t.rb.step = 0 && t.tcnt = 200) = true ∧
    nextSat (exec .render { block 20 with mode := 2, tcnt := 599 }) (fun t =>
      showsAll t (255, 255, 255) && t.tcnt = 0 && t.trace = []) = true := by decide +kernel

/-- FR1. -/
theorem test_frame : nextSat (exec .frame { block 20 with draws := [0] }) (fun t =>
    (sampledBits false t.trace).take 24 =
      [false, false, false, false, false, true, false, false, false, false, false, false, false, true, false, false,
       false, false, false, false, false, true, false, false] &&
    (sampledBits false t.trace).length = 480 && paces t.trace = [50, 1] && t.tcnt = 1 && t.mode = 0) = true := by decide +kernel

/-- CS10 and CS9. -/
theorem test_csrrd :
    nextSat (step (offering { block 1 with lines := { sclk := false, sdata := true } } 0xC00C0000)) (fun t => t.rsp = some 2) = true ∧
    nextSat (step (offering (block 1) 0xC00D0000)) (fun t => t.faultPort = 3 && t.rsp = none) = true := by decide

/-- CS6 and CS7: the check is on the combined TCNT. -/
theorem test_csrwr :
    nextSat (step (offering { block 20 with tcnt := 0x200 } 0xD0010057)) (fun t => t.tcnt = 599) = true ∧
    nextSat (step (offering (block 20) 0xD0020003)) (fun t => t.faultPort = 4 && t.tcnt = 0) = true := by decide

/-- CS3 to CS5 and CS8. -/
theorem test_csrwr_limits :
    nextSat (exec (.csrwr 0 6) (block 20)) (fun t => t.faultPort = 4) = true ∧
    nextSat (exec (.csrwr 0x0B 7) (block 20)) (fun t => t.faultPort = 4) = true ∧
    nextSat (exec (.csrwr 0x0A 19) (block 20)) (fun t => t.rp.pos = 19) = true ∧
    nextSat (exec (.csrwr 0x0A 20) (block 20)) (fun t => t.faultPort = 4) = true ∧
    nextSat (exec (.csrwr 0x0C 1) (block 20)) (fun t => t.faultPort = 3) = true := by decide

/-! ## Steps around the commands -/

/-- 95 §2.9: the decode fault comes before the index (R204). -/
theorem test_fault_priority : nextSat (step (offering (block 20) 0x13140000)) (fun t => t.faultPort = 1) = true := by decide

/-- P6: after a fault no command runs (R203). -/
theorem test_halted : step (offering { block 20 with fault := .badIndex } 0x30000007) = .fault (.halted .badIndex) := by rfl

/-- R220: reset leaves the faulted state, and the offered word is not taken. -/
theorem test_reset_clears_fault :
    step (offering { filled 2 7 with fault := .badReg, rst := .high, mode := 3 } 0x30000007) = .next (offering (block 2) 0x30000007) := by rfl

/-- R220: reset inside TXFRAME, after four of its events. -/
theorem test_reset_inside_txframe :
    nextSat (step (offering { filled 1 255 with rst := .rises 4 } 0x80000000)) (fun t =>
      t.trace = [.data true, .clk true, .clk false, .data true] && t.pb = [] && !t.sdataPort && t.pending = []) = true := by decide

/-- The first step from reset is the sequencer's FRAME (R177): MODE 0 runs Rollpoints. -/
theorem test_first_step_is_a_frame : nextSat (step { State.reset with draws := [0] }) (fun t => t.rp.pos = 1 && t.tcnt = 1 && !t.done) = true := by decide +kernel

/-- A word placed by `withFetchWord` is the first to run after reset. -/
theorem test_with_fetch_word :
    nextSat (step (State.reset.withFetchWord 32 0x2203007F)) (fun t => t.pb = [(11, 127)] && t.tcnt = 0 && t.done) = true := by decide

/-- A configuration outside R8 is refused. -/
theorem test_illegal_config : step (block 0) = .refused .illegalConfig := by rfl

/-! ## Assembler -/

/-- Lines of 95 §3 P2, P4 and P1, and the pseudo-instructions of R93. -/
theorem test_assemble :
    assembleProgram Config.standard
      [['P', 'B', 'W', 'R', ' ', ' ', '1', ',', ' ', 'B', ',', ' ', '0', 'x', 'A', '5', ' ', ';', ' ', 'x'],
       [';', 'n', 'o', 't', 'e'],
       ['C', 'S', 'R', 'W', 'R', ' ', 'T', 'C', 'N', 'T', '_', 'L', 'O', ',', ' ', '1', '9', '9'],
       ['H', 'A', 'L', 'V', 'E'],
       ['S', 'E', 'T', 'P', 'I', 'X', ' ', '2', ',', '1', ',', '2', ',', '3']] =
      some [0x220100A5, 0xD00100C7, 0x50000001, 0x20020001, 0x21020002, 0x22020003] := by decide

/-- R92: a channel other than R, G, B, a number over 255 and an unknown mnemonic are errors. -/
theorem test_assembly_errors :
    assembleLine Config.standard ['P', 'B', 'R', 'D', ' ', '0', ',', 'X'] = none ∧
    assembleLine Config.standard ['D', 'I', 'M', ' ', '2', '5', '6'] = none ∧
    assembleLine Config.standard ['D', 'U', 'M'] = none := by decide

/-! ## The obligations' hypotheses are met

For each obligation with hypotheses, a case that meets them all, and for its clauses the values where they meet. A statement about a next state
has its next state here too; it is one without a fault unless the clause is about a fault. -/

/-- Words of each format that decode to nothing, or to a command, and a state that offers one: the premises of every `Claims.Encoded`. -/
theorem witness_encoded_clauses :
    (offering (block 20) 0x00000001).Offers 0x00000001 [] ∧ (offering (block 20) 0x30000100).Offers 0x30000100 [] ∧
    (∀ op : BitVec 4, ∃ w : CmdWord, w.extractLsb' 28 4 = op ∧ w.extractLsb' 0 28 = 0) ∧
    (∀ op : BitVec 4, ∃ w : CmdWord, w.extractLsb' 28 4 = op ∧ w.extractLsb' 0 28 ≠ 0) ∧
    (∀ op : BitVec 4, ∃ w : CmdWord, w.extractLsb' 28 4 = op ∧ w.extractLsb' 8 20 = 0 ∧ w.extractLsb' 0 8 = 255) ∧
    (∀ op : BitVec 4, ∃ w : CmdWord, w.extractLsb' 28 4 = op ∧ w.extractLsb' 8 20 ≠ 0) := by
  refine ⟨by decide, by decide, fun op => ⟨placeField op 28, ?_⟩, fun op => ⟨placeField op 28 ||| 1, ?_⟩,
    fun op => ⟨placeField op 28 ||| 255, ?_⟩, fun op => ⟨placeField op 28 ||| 256, ?_⟩⟩ <;> revert op <;> decide

theorem witness_ArithmeticPrimitives : (256 : Nat) ≤ (0xFF : Byte).toNat + (1 : Byte).toNat ∧ (8 : Nat) ≤ 8 ∧ (0 : Nat) < 20 := by decide

theorem witness_WordsDecodeByExactlyOneRow :
    decode 0x12130000 = .ok (.pbrd 19 .B) ∧ (0x12130000 : CmdWord) &&& Opcode.mask .pbrd = Opcode.matchWord .pbrd ∧
    (0x13130000 : CmdWord) &&& Opcode.mask .pbrd = Opcode.matchWord .pbrd ∧ (0x13130000 : CmdWord).extractLsb' 24 2 = 3 := by decide

theorem witness_IllegalWordsRaiseIllegalCmd :
    Claims.illegalWord 0xE0000000 ∧ (offering (block 20) 0xE0000000).Offers 0xE0000000 [] ∧ ¬ Claims.illegalWord 0xB0000000 := by
  refine ⟨trivial, by decide, ?_⟩
  show ¬ ((0xB0000000 : CmdWord).extractLsb' 0 28 ≠ 0)
  decide

theorem witness_StepRunsTheOfferedCommand :
    (offering (block 20) 0xC00C0000).Offers 0xC00C0000 [] ∧ decode 0xC00C0000 = .ok (.csrrd 12) := by decide

theorem witness_AutorunStepRunsFrame : State.reset.Ready ∧ State.reset.cfg.autorun = true := by decide

theorem witness_IdleStepWaits : (block 1).Ready ∧ (block 1).cfg.autorun = false ∧ (block 1).pending = [] := by decide

theorem witness_FaultedBlockHalts :
    (block 1).cfg.legal = true ∧ (block 1).rst = .low ∧ ({ block 1 with fault := .badValue } : State).fault ≠ .noFault := by decide

theorem witness_IllegalConfigurationIsRefused : (block 0).cfg.legal = false ∧ (block 257).cfg.legal = false := by decide

/-- Reset at a boundary, and reset before the first and after the third entry of a TXFRAME. -/
theorem witness_ResetSetsEveryPieceOfState :
    (block 1).cfg.legal = true ∧ ({ block 1 with rst := .high } : State).rst = .high ∧
    ({ block 1 with rst := .rises 0 } : State).rst ≠ .low ∧
    step { offering (block 1) 0x80000000 with rst := .low } = .next (txframe (offering (block 1) 0x80000000).accept) := by
  exact ⟨by decide, rfl, by decide, rfl⟩

/-- idx = N - 1 and idx = N. -/
theorem witness_PbrdRespondsTheCell :
    (19 : Byte).toNat < (block 20).cfg.n ∧ (block 20).cfg.n ≤ (20 : Byte).toNat ∧ (255 : Byte).toNat < (block 256).cfg.n ∧
    (offering (block 20) 0x13000000).Offers 0x13000000 [] ∧ (0x13000000 : CmdWord).extractLsb' 24 2 = 3 ∧
    (offering (block 20) 0x10000001).Offers 0x10000001 [] ∧ (0x10000001 : CmdWord).extractLsb' 0 16 ≠ 0 := by decide

/-- idx = N - 1 and idx = N. -/
theorem witness_PbwrWritesOneCell :
    Memory.wf (filled 2 7).pb = true ∧ (1 : Byte).toNat < (filled 2 7).cfg.n ∧ (filled 2 7).cfg.n ≤ (2 : Byte).toNat ∧
    (offering (block 20) 0x20000100).Offers 0x20000100 [] ∧ (0x20000100 : CmdWord).extractLsb' 8 8 ≠ 0 := by decide

theorem witness_PbfillSetsEveryCell :
    Memory.wf (filled 2 7).pb = true ∧ 1 < (filled 2 7).cfg.n ∧ 3 * (filled 2 7).cfg.n ≤ 6 ∧
    exec (.pbfill 0) (filled 2 7) = .next (block 2) := by exact ⟨by decide, by decide, by decide, rfl⟩

theorem witness_PbdecayFloorsEveryCell :
    Memory.wf (filled 2 7).pb = true ∧ 1 < (filled 2 7).cfg.n ∧ exec (.pbdecay 3) (filled 2 7) = .next (filled 2 4) :=
  ⟨by decide, by decide, rfl⟩

theorem witness_DimDividesByAPowerOfTwo :
    Memory.wf (filled 2 7).pb = true ∧ 1 < (filled 2 7).cfg.n ∧ exec (.dim 2) (filled 2 7) = .next (filled 2 1) ∧
    exec (.dim 0) (filled 2 7) = .next (filled 2 7) := ⟨by decide, by decide, rfl, rfl⟩

/-- The cell written, and another. -/
theorem witness_ReadReturnsTheLastWrite :
    Memory.wf (filled 2 7).pb = true ∧ (1 : Byte).toNat < (filled 2 7).cfg.n ∧ (0 : Byte).toNat < (filled 2 7).cfg.n := by decide

theorem witness_TxframeSendsTheBuffer : 0 < (block 1).cfg.n ∧ (block 1).Ready := by decide

theorem witness_ReceiverSamplesTheBuffer : exec .txframe (filled 2 7) = .next (txframe (filled 2 7)) := rfl

/-- A command that drives the lines, and one that does not. -/
theorem witness_LinesHoldTheLastDrivenLevels :
    exec .txframe (filled 1 7) = .next (txframe (filled 1 7)) ∧ (txframe (filled 1 7)).lines = { sclk := false, sdata := true } ∧
    exec .rainbow (filled 1 7) = .next (rainbow (filled 1 7)) ∧ Instr.rainbow ∉ [Instr.txframe, Instr.frame] :=
  ⟨rfl, rfl, rfl, by decide⟩

/-- A command without a Pace, and each command with one; RENDER in modes 0, 1 (at T_ROLL) and 2; BTNPOLL and FRAME without a rising edge (sample
0) and with one (samples 1, 1). -/
theorem witness_PacingOfEachCommand :
    exec (.dim 1) (filled 1 7) = .next (dim 1 (filled 1 7)) ∧
    Instr.dim 1 ∉ [Instr.rainbow, .rollpt, .txframe, .btnpoll, .render, .frame] ∧
    exec .rainbow (block 1) = .next (rainbow (block 1)) ∧ exec .rollpt (block 1) = .next (rollpt (block 1)) ∧
    exec .txframe (block 1) = .next (txframe (block 1)) ∧
    nextSat (exec .render (block 1)) (fun t => paces t.trace = [50]) = true ∧
    nextSat (exec .render { block 1 with mode := 1, tcnt := 200 }) (fun t => paces t.trace = [25]) = true ∧
    nextSat (exec .render { block 1 with mode := 2 }) (fun t => paces t.trace = []) = true ∧
    nextSat (exec .btnpoll { block 1 with draws := [0] }) (fun t => paces t.trace = []) = true ∧
    nextSat (exec .btnpoll { block 1 with draws := [1, 1] }) (fun t => paces t.trace = [50]) = true ∧
    nextSat (exec .frame { block 1 with draws := [0] }) (fun t => paces t.trace = [50, 1]) = true ∧
    nextSat (exec .frame { block 1 with draws := [1, 1] }) (fun t => paces t.trace = [50, 1, 50]) = true := by
  exact ⟨rfl, by decide, rfl, rfl, rfl, by decide, by decide, by decide, by decide, by decide, by decide, by decide⟩

/-- An entry that names two channels, one each way. -/
theorem witness_ApplyEntryDrivesTheNamedChannels :
    (([(.B, .down), (.R, .up)] : RainbowEntry).map Prod.fst).Nodup ∧ Config.standard.legal = true ∧
    applyEntry [(.B, .down), (.R, .up)] 5 { r := 1, g := 2, b := 3 } = { r := 5, g := 2, b := 250 } := by decide

/-- The last pixel's cells, and the first address after them. -/
theorem witness_RainbowPaintsByPhase : Memory.wf (filled 2 7).pb = true ∧ 1 < (filled 2 7).cfg.n ∧ 3 * (filled 2 7).cfg.n ≤ 6 := by decide

theorem witness_RainbowIgnoresTheOldBuffer :
    Memory.wf (block 2).pb = true ∧ Memory.within (3 * (block 2).cfg.n) (block 2).pb = true ∧
    Memory.wf (filled 2 77).pb = true ∧ Memory.within (3 * (block 2).cfg.n) (filled 2 77).pb = true ∧
    exec .rainbow (block 2) = .next (rainbow (block 2)) ∧
    exec .rainbow { block 2 with pb := (filled 2 77).pb } = .next (rainbow (block 2)) ∧ (block 2).cfg.rbCallStep = 32 :=
  ⟨by decide, by decide, by decide, by decide, rfl, rfl, rfl⟩

/-- The default step, and RB_CALL_STEP = 1. -/
theorem witness_DefaultRainbowCycleEndsAtThirtyOne :
    (block 1).cfg.rainbowTable = Config.defaultRainbowTable ∧ (block 1).rb.sub = 0 ∧ (block 1).rb.step = 0 ∧
    (block 1).cfg.rbCallStep = 32 ∧
    ({ (block 1).cfg with rbCallStep := 1 } : Config).rainbowTable = Config.defaultRainbowTable ∧
    ({ (block 1).cfg with rbCallStep := 1 } : Config).rbCallStep = 1 := by decide

/-- 127 and 128 (R145). -/
theorem witness_TriangleWave : (high 127).toNat = 127 ∧ (high 128).toNat = 127 ∧ (high 255).toNat = 0 := by decide

/-- A call that wraps the counter (252 + 4), and one that does not (251 + 4). -/
theorem witness_RollptDrawsTwoComets :
    (filled 2 7).cfg.legal = true ∧ Memory.wf (filled 2 7).pb = true ∧ 256 ≤ (252 : Byte).toNat + (filled 2 7).cfg.rpStep.toNat ∧
    (251 : Byte).toNat + (filled 2 7).cfg.rpStep.toNat < 256 ∧ 1 < (filled 2 7).cfg.n := by decide

/-- Ten pixels, the least number: the comets at 9 and 4 touch every pixel once. -/
theorem witness_CometsAreDisjointFromTenPixels :
    10 ≤ (block 10).cfg.n ∧ (block 10).cfg.rpOffset = (block 10).cfg.n / 2 ∧
    (cometCentres (block 10).cfg 9).flatMap (fun centre => (List.range 5).map (cometPixel 10 centre)) = [7, 8, 9, 0, 1, 2, 3, 4, 5, 6] ∧
    (block 10).cfg.legal = true ∧ Memory.wf (block 10).pb = true ∧ exec .rollpt (block 10) = .next (rollpt (block 10)) ∧
    5 ∈ cometCentres (block 10).cfg (block 10).rp.pos ∧ Channel.B ∈ chset (rollpt (block 10)).rp.cyc := by
  exact ⟨by decide, by decide, by decide, by decide, by decide, rfl, by decide, by decide⟩

theorem witness_RollptBoundsAndPeriods :
    (3 : Byte).toNat ≤ (3 : Byte).toNat ∧ (block 2).cfg.rpStep = 4 ∧ (block 2).rp.cnt.toNat % 4 = 0 ∧ (block 2).cfg.legal = true ∧
    (block 2).rp.pos.toNat < (block 2).cfg.n := by decide

/-- Two states that agree on a generator's own state and differ in the other's. -/
theorem witness_GeneratorsArePrivate :
    exec .rainbow (block 2) = .next (rainbow (block 2)) ∧
    exec .rainbow { block 2 with rp := { cnt := 9, pos := 1, cyc := 3 } } =
      .next (rainbow { block 2 with rp := { cnt := 9, pos := 1, cyc := 3 } }) ∧
    exec .rollpt (block 2) = .next (rollpt (block 2)) ∧
    exec .rollpt { block 2 with rb := { sub := 1, step := 2, seed := { r := 3, g := 4, b := 5 } } } =
      .next (rollpt { block 2 with rb := { sub := 1, step := 2, seed := { r := 3, g := 4, b := 5 } } }) ∧
    exec (.pbfill 9) (block 2) = .next (pbfill 9 (block 2)) ∧ exec (.dim 9) (block 2) = .next (dim 9 (block 2)) :=
  ⟨rfl, rfl, rfl, rfl, rfl, rfl⟩

/-- No edge; an edge confirmed, from MODE 4 and from MODE 5; an edge rejected. -/
theorem witness_BtnpollAdvancesOnConfirmedEdges :
    ({ block 1 with btnPrev := 1, draws := [1] } : State).nextDraw &&& ~~~ (1 : Buttons) = 0 ∧
    ({ block 1 with draws := [1, 1], mode := 4 } : State).nextDraw &&& ~~~ (0 : Buttons) ≠ 0 ∧
    Claims.secondDraw { block 1 with draws := [1, 1], mode := 5 } ≠ 0 ∧
    Claims.secondDraw { block 1 with draws := [1, 0] } = 0 := by decide

/-- Two presses, and none. -/
theorem witness_ConfirmedPressesCycleTheMode :
    (∀ p ∈ ([(1, 1), (2, 3)] : List (Buttons × Buttons)), p.1 ≠ 0 ∧ p.2 ≠ 0) ∧
    ({ block 1 with draws := [0, 1, 1, 0, 2, 3] } : State).draws = Claims.pressSamples [(1, 1), (2, 3)] ++ [] := by decide

/-- A mask that rises in the first poll, and one that was held before. -/
theorem witness_HeldButtonAdvancesOnce :
    ({ block 1 with draws := [1, 1, 1] } : State).draws = List.replicate (1 + 2) 1 ++ [] ∧
    (1 : Buttons) &&& ~~~ (block 1).btnPrev ≠ 0 ∧ (1 : Buttons) &&& ~~~ (3 : Buttons) = 0 := by decide

/-- Each mode; TCNT at 0, T_ROLL - 1, T_ROLL and T_PERIOD - 1. -/
theorem witness_RenderSelectsTheGenerator :
    (block 20).cfg.legal = true ∧ (0 : BitVec 16).toNat < (block 20).cfg.tPeriod ∧ (599 : BitVec 16).toNat < (block 20).cfg.tPeriod ∧
    (599 : BitVec 16).toNat + 1 = (block 20).cfg.tPeriod ∧ (199 : BitVec 16).toNat < (block 20).cfg.tRoll ∧
    (block 20).cfg.tRoll ≤ (200 : BitVec 16).toNat ∧ (∀ m : Fin 6, ({ block 20 with mode := m } : State).mode = m) :=
  ⟨by decide, by decide, by decide, by decide, by decide, by decide, fun _ => rfl⟩

theorem witness_FrameCounterCycles :
    (block 20).cfg.legal = true ∧ ({ block 20 with tcnt := 599 } : State).tcnt.toNat < (block 20).cfg.tPeriod := by decide

theorem witness_EveryFrameSentIsTheFrameRendered : exec .frame (filled 2 7) = .next (frame (filled 2 7)) := rfl

theorem witness_NopChangesNothing : (offering (block 1) 0).Offers 0 [] := by decide

/-- The last defined register and the first reserved one. -/
theorem witness_CsrrdRespondsTheRegister :
    (0x0C : Byte).toNat ≤ 0x0C ∧ 0x0C < (0x0D : Byte).toNat ∧
    (offering (block 20) 0xC000000C).Offers 0xC000000C [] ∧ (0xC000000C : CmdWord).extractLsb' 0 16 ≠ 0 := by decide

/-- The last value refused and the last accepted of each checked register, and the registers 0x0B, 0x0C. -/
theorem witness_CsrwrWritesOneRegister :
    0x0C ≤ (0x0C : Byte).toNat ∧ (0x0B : Byte).toNat < 0x0C ∧
    (Claims.badValue (block 20) 0x00 6 ∧ ¬ Claims.badValue (block 20) 0x00 5) ∧
    (Claims.badValue { block 20 with tcnt := 0x200 } 0x01 0x58 ∧ ¬ Claims.badValue { block 20 with tcnt := 0x200 } 0x01 0x57) ∧
    (Claims.badValue (block 20) 0x02 3 ∧ ¬ Claims.badValue (block 20) 0x02 2) ∧
    (Claims.badValue (block 20) 0x03 4 ∧ ¬ Claims.badValue (block 20) 0x03 3) ∧
    (Claims.badValue (block 20) 0x04 8 ∧ ¬ Claims.badValue (block 20) 0x04 7) ∧
    (Claims.badValue (block 20) 0x0A 20 ∧ ¬ Claims.badValue (block 20) 0x0A 19) ∧
    (Claims.badValue (block 20) 0x0B 7 ∧ ¬ Claims.badValue (block 20) 0x0B 6) ∧ ¬ Claims.badValue (block 20) 0x05 255 := by
  simp only [Claims.badValue]
  decide

theorem witness_DebugWriteReadsBack :
    (block 20).fault = .noFault ∧ exec (.csrwr 0x0B 6) (block 20) = .next { block 20 with rp := { cnt := 0, pos := 0, cyc := 6 } } ∧
    ({ block 20 with rp := { cnt := 0, pos := 0, cyc := 6 } } : State).fault = .noFault := ⟨by decide, rfl, by decide⟩

theorem witness_FaultsArePrecise :
    exec (.csrwr 0 6) (block 20) = .next { block 20 with fault := .badValue } ∧
    (offering (block 20) 0xD0000006).Offers 0xD0000006 [] ∧
    step (offering (block 20) 0xD0000006) = .next { block 20 with done := true, fault := .badValue } := ⟨rfl, by decide, rfl⟩

/-- A word that decodes to nothing, one that runs, and an autonomous step. -/
theorem witness_EachCommandRaisesItsFaults :
    (offering (block 20) 0x13140000).Offers 0x13140000 [] ∧
    step (offering (block 20) 0x13140000) = .next { block 20 with done := true, fault := .illegalCmd } ∧
    (block 20).fault = .noFault ∧ exec (.pbrd 20 .R) (block 20) = .next { block 20 with fault := .badIndex } ∧
    State.reset.Ready ∧ State.reset.cfg.autorun = true ∧ step State.reset = .next (frame State.reset.accept) :=
  ⟨by decide, rfl, rfl, rfl, by decide, rfl, rfl⟩

/-- One word for each clause. -/
theorem witness_FaultPriority :
    (offering (block 20) 0x13140000).Offers 0x13140000 [] ∧ Claims.illegalWord 0x13140000 ∧
    (offering (block 20) 0xD00C00FF).Offers 0xD00C00FF [] ∧ decode 0xD00C00FF = .ok (.csrwr 0x0C 255) ∧
    (offering (block 20) 0xD0000006).Offers 0xD0000006 [] ∧ decode 0xD0000006 = .ok (.csrwr 0x00 6) ∧
    Claims.badValue (block 20) 0x00 6 ∧ (offering (block 20) 0xC00D0000).Offers 0xC00D0000 [] ∧ decode 0xC00D0000 = .ok (.csrrd 0x0D) ∧
    (offering (block 20) 0x10140000).Offers 0x10140000 [] ∧ decode 0x10140000 = .ok (.pbrd 20 .R) ∧
    decode 0x201400FF = .ok (.pbwr 20 .R 255) ∧ (block 20).cfg.n ≤ (20 : Byte).toNat :=
  ⟨by decide, .inr (.inr rfl), by decide, by decide, by decide, by decide, (by decide : 5 < 6), by decide, by decide, by decide, by decide,
    by decide, by decide⟩

/-- For each item of R36 a command that changes it. -/
theorem witness_EachStateItemHasItsWriters :
    exec (.pbwr 0 .R 1) (block 1) = .next { block 1 with pb := [(0, 1)] } ∧
    exec (.csrwr 0 1) (block 1) = .next { block 1 with mode := 1 } ∧
    exec (.csrwr 1 1) (block 1) = .next { block 1 with tcnt := 1 } ∧
    exec (.csrwr 3 1) (block 1) = .next { block 1 with btnPrev := 1 } ∧
    exec (.csrwr 9 1) (block 1) = .next { block 1 with rp := { cnt := 1, pos := 0, cyc := 0 } } ∧
    (∃ t, exec .rainbow (block 1) = .next t ∧ t.rb ≠ (block 1).rb) ∧
    (∃ t, exec .txframe (filled 1 1) = .next t ∧ t.lines ≠ (filled 1 1).lines) ∧
    (∃ t, exec (.csrrd 0) (block 1) = .next t ∧ t.rsp ≠ (block 1).rsp) ∧
    (∃ t, exec .btnpoll { block 1 with draws := [0] } = .next t ∧ t.drawCount ≠ 0) ∧
    (∃ t, exec (.csrrd 13) (block 1) = .next t ∧ t.fault ≠ (block 1).fault) :=
  ⟨rfl, rfl, rfl, rfl, rfl, ⟨_, rfl, by decide⟩, ⟨_, rfl, by decide⟩, ⟨_, rfl, by decide⟩, ⟨_, rfl, by decide⟩, ⟨_, rfl, by decide⟩⟩

/-- An advance by a confirmed press, and a debug write. -/
theorem witness_ModeAdvancesCyclically :
    (∃ t, exec .btnpoll { block 1 with mode := 5, draws := [1, 1] } = .next t ∧ t.mode ≠ 5) ∧
    (∃ t, exec (.csrwr 0 3) (block 1) = .next t ∧ t.mode ≠ (block 1).mode) := ⟨⟨_, rfl, by decide⟩, ⟨_, rfl, by decide⟩⟩

theorem witness_StepKeepsTheInvariant :
    (offering (filled 2 7) 0x70000000).Inv ∧
    step (offering (filled 2 7) 0x70000000) = .next (rollpt (offering (filled 2 7) 0x70000000).accept) := ⟨by decide, rfl⟩

theorem witness_ResetMeetsTheInvariant : (Config.ofCount 1).legal = true ∧ (Config.ofCount 256).legal = true := by decide

theorem witness_StepKeepsTheConfiguration : step State.reset = .next (frame State.reset.accept) := rfl

theorem witness_AutonomousRunNeverFaults : State.reset.Ready ∧ State.reset.cfg.autorun = true := by decide

theorem witness_AutonomousRunSendsOneFrameAStep : State.reset.Ready ∧ State.reset.Inv ∧ State.reset.cfg.autorun = true := by decide

theorem witness_AutorunClosesThePort :
    State.reset.cfg.autorun = true ∧ step State.reset = .next (frame State.reset.accept) := ⟨rfl, rfl⟩

/-- A step with a response, and one without. -/
theorem witness_ResponseIsTheOneEmitted :
    (offering (block 20) 0x10000000).rst = .low ∧
    step (offering (block 20) 0x10000000) = .next { block 20 with done := true, rsp := some 0, trace := [.resp 0] } ∧
    step (block 20) = .next (block 20) := ⟨rfl, rfl, rfl⟩

/-- The last pixel, with the largest bytes. -/
theorem witness_SetpixSetsOnePixel :
    Memory.wf (filled 2 7).pb = true ∧ 1 < (filled 2 7).cfg.n ∧ 1 ≤ 255 ∧ (255 : Nat) ≤ 255 := by decide

/-- 255 is assembled, 256 is not. -/
theorem witness_PseudoInstructionsExpand :
    commandsOf Config.standard (.solid 255) = some [.pbfill 255] ∧ commandsOf Config.standard (.solid 256) = none := by decide

end Sys2Proof.Tests
end

section
/-! PROOFS. 00_scope.md: the arithmetic primitives, the rejection of a configuration, and the autonomous run. -/

namespace Sys2Proof.Machine

/-! ## Arithmetic (R13) -/

/-- A shift by the width of a byte or more leaves nothing. -/
theorem shr_eq_zero (a : Byte) {k : Nat} (hk : 8 ≤ k) : shr a k = 0 := by
  have hpow : 2 ^ 8 ≤ 2 ^ k := Nat.pow_le_pow_right (by decide) hk
  apply BitVec.eq_of_toNat_eq
  rw [shr_toNat, Nat.div_eq_of_lt (Nat.lt_of_lt_of_le a.isLt hpow)]
  rfl

/-- As an integer, `pixelMod` is the Euclidean remainder. -/
theorem pixelMod_cast (x : Int) {n : Nat} (h : 0 < n) : (pixelMod x n : Int) = x % n :=
  Int.toNat_of_nonneg (Int.emod_nonneg x (by omega))

/-- Settles O1: the primitives' number laws, with the quotient `x / n` as the witness for the remainder. -/
theorem arithmeticPrimitives : Obligations.ArithmeticPrimitives := by
  refine ⟨fun a b => ⟨add8_toNat a b, carry8_iff a b, ?_, satadd8_toNat a b, cpl8_toNat a⟩,
    fun a k => ⟨shr_toNat a k, shr_eq_zero a⟩, fun x n hn => ⟨pixelMod_lt x hn, x / n, ?_⟩⟩
  · rw [satsub8_toNat]
    omega
  · rw [pixelMod_cast x hn]
    exact (Int.ediv_mul_add_emod x n).symm

/-! ## What a step does -/

/-- Settles O10: the legality test comes before everything else a step does. -/
theorem illegalConfigurationIsRefused : Obligations.IllegalConfigurationIsRefused := by
  intro s h
  simp [step, h]

/-- A ready block runs the word it fetches. -/
theorem step_of_fetchWord {s : State} {w : CmdWord} (h : s.Ready) (hw : s.fetchWord = some w) : step s = s.runWord w := by
  obtain ⟨hlegal, hrst, hfault⟩ := h
  simp [step, State.proceed, hlegal, hrst, hfault, hw]

theorem runWord_of_decode {w : CmdWord} {i : Instr} (s : State) (h : decode w = .ok i) : s.runWord w = exec i s.accept := by
  simp [State.runWord, h]

theorem decode_sequencerWord : decode sequencerWord = .ok .frame := rfl

/-- A step of the autonomous block is one FRAME (R177). -/
theorem step_of_autorun {s : State} (h : s.Ready) (ha : s.cfg.autorun = true) : step s = .next (frame s.accept) := by
  have hw : s.fetchWord = some sequencerWord := if_pos ha
  rw [step_of_fetchWord h hw, runWord_of_decode s decode_sequencerWord]
  rfl

/-- A run goes on from the state its first step answers. -/
theorem run_succ_of_step (M : Host.Core) (k : Nat) {s t : M.State} (h : M.step s = .next t) :
    M.run (k + 1) s = M.run k t := by
  rw [Host.Core.run, h]

/-! ## The frame of a FRAME -/

/-- A generator touches the buffer, its own registers and the observation. -/
theorem renderMode_frame (s : State) : renderMode s = { s with
    pb := (renderMode s).pb, rb := (renderMode s).rb, rp := (renderMode s).rp, trace := (renderMode s).trace } := by
  rcases renderMode_cases s with ⟨_, _, h⟩ | ⟨_, _, h⟩ | ⟨_, _, h⟩ | ⟨_, _, h⟩ | ⟨_, h⟩ | ⟨_, h⟩ | ⟨_, h⟩ | ⟨_, h⟩ <;>
    rw [h] <;> rfl

/-- A poll touches MODE, BTNPREV, the samples and the observation. -/
theorem btnpoll_frame (s : State) : btnpoll s = { s with
    mode := (btnpoll s).mode, btnPrev := (btnpoll s).btnPrev, draws := (btnpoll s).draws
    drawCount := (btnpoll s).drawCount, trace := (btnpoll s).trace } := by
  rcases btnpoll_cases s with ⟨_, h⟩ | ⟨_, _, h⟩ | ⟨_, _, h⟩ <;> rw [h] <;> rfl

@[simp] theorem renderMode_cfg (s : State) : (renderMode s).cfg = s.cfg := by rw [renderMode_frame s]
@[simp] theorem renderMode_fault (s : State) : (renderMode s).fault = s.fault := by rw [renderMode_frame s]
@[simp] theorem renderMode_rst (s : State) : (renderMode s).rst = s.rst := by rw [renderMode_frame s]
@[simp] theorem renderMode_pending (s : State) : (renderMode s).pending = s.pending := by rw [renderMode_frame s]

@[simp] theorem btnpoll_cfg (s : State) : (btnpoll s).cfg = s.cfg := by rw [btnpoll_frame s]
@[simp] theorem btnpoll_fault (s : State) : (btnpoll s).fault = s.fault := by rw [btnpoll_frame s]
@[simp] theorem btnpoll_rst (s : State) : (btnpoll s).rst = s.rst := by rw [btnpoll_frame s]
@[simp] theorem btnpoll_pending (s : State) : (btnpoll s).pending = s.pending := by rw [btnpoll_frame s]

@[simp] theorem frame_cfg (s : State) : (frame s).cfg = s.cfg := by simp [frame, render]
@[simp] theorem frame_fault (s : State) : (frame s).fault = s.fault := by simp [frame, render]
@[simp] theorem frame_rst (s : State) : (frame s).rst = s.rst := by simp [frame, render]
@[simp] theorem frame_pending (s : State) : (frame s).pending = s.pending := by simp [frame, render]

/-! ## The autonomous run (R177) -/

/-- One step of the autonomous block: it stays ready, with its parameters and its port as they were. -/
theorem step_keeps_ready_of_autorun {s : State} (h : s.Ready) (ha : s.cfg.autorun = true) :
    ∃ t, step s = .next t ∧ t.Ready ∧ t.cfg = s.cfg ∧ t.pending = s.pending :=
  ⟨frame s.accept, step_of_autorun h ha, by simpa [State.Ready] using h, by simp, by simp [ha]⟩

/-- Settles O55, by induction on the number of steps. -/
theorem autonomousRunNeverFaults : Obligations.AutonomousRunNeverFaults := by
  intro k
  induction k with
  | zero => exact fun s h _ => ⟨s, rfl, h, rfl, rfl⟩
  | succ k ih =>
    intro s h ha
    obtain ⟨t, hstep, ht, htcfg, htpending⟩ := step_keeps_ready_of_autorun h ha
    obtain ⟨u, hrun, hu, hucfg, hupending⟩ := ih t ht (htcfg ▸ ha)
    exact ⟨u, (run_succ_of_step core k hstep).trans hrun, hu, hucfg.trans htcfg, hupending.trans htpending⟩

end Sys2Proof.Machine
end

section
/-! PROOFS. 10_state.md: the legal values of the state, the output lines, the frame time counter, and who writes what. -/

namespace Sys2Proof.Machine

/-! ## What a command can do -/

/-- All that a command can do (R87), with the guard of each outcome. -/
inductive Effect (s : State) : Instr → State → Prop where
  | nop : Effect s .nop s
  | pbrd {idx : Byte} {ch : Channel} (hidx : idx.toNat < s.cfg.n) :
      Effect s (.pbrd idx ch) (s.respond (memRead s.pb idx.toNat ch))
  | pbrdFault {idx : Byte} {ch : Channel} (hidx : s.cfg.n ≤ idx.toNat) : Effect s (.pbrd idx ch) (s.raiseFault .badIndex)
  | pbwr {idx : Byte} {ch : Channel} {v : Byte} (hidx : idx.toNat < s.cfg.n) :
      Effect s (.pbwr idx ch v) (s.setPb (memWrite s.pb idx.toNat ch v))
  | pbwrFault {idx : Byte} {ch : Channel} {v : Byte} (hidx : s.cfg.n ≤ idx.toNat) :
      Effect s (.pbwr idx ch v) (s.raiseFault .badIndex)
  | pbfill {v : Byte} : Effect s (.pbfill v) (pbfill v s)
  | pbdecay {delta : Byte} : Effect s (.pbdecay delta) (pbdecay delta s)
  | dim {k : Byte} : Effect s (.dim k) (dim k s)
  | rainbow : Effect s .rainbow (rainbow s)
  | rollpt : Effect s .rollpt (rollpt s)
  | txframe : Effect s .txframe (txframe s)
  | btnpoll : Effect s .btnpoll (btnpoll s)
  | render : Effect s .render (render s)
  | frame : Effect s .frame (frame s)
  | csrrd {reg : Byte} {r : DebugReg} (hreg : DebugReg.ofNum reg = some r) :
      Effect s (.csrrd reg) (s.respond (readDebug s r))
  | csrrdFault {reg : Byte} (hreg : DebugReg.ofNum reg = none) : Effect s (.csrrd reg) (s.raiseFault .badReg)
  | csrwr {reg v : Byte} {r : DebugReg} (hreg : DebugReg.ofNum reg = some r) : Effect s (.csrwr reg v) (writeDebug s v r)
  | csrwrFault {reg v : Byte} (hreg : DebugReg.ofNum reg = none) : Effect s (.csrwr reg v) (s.raiseFault .badReg)

theorem effect_of_execPbrd {idx : Byte} {ch : Channel} {s t : State} (h : execPbrd idx ch s = .next t) :
    Effect s (.pbrd idx ch) t := by
  unfold execPbrd at h
  split at h
  · next hidx => cases h; exact .pbrdFault hidx
  · next hidx => cases h; exact .pbrd (by omega)

theorem effect_of_execPbwr {idx : Byte} {ch : Channel} {v : Byte} {s t : State} (h : execPbwr idx ch v s = .next t) :
    Effect s (.pbwr idx ch v) t := by
  unfold execPbwr at h
  split at h
  · next hidx => cases h; exact .pbwrFault hidx
  · next hidx => cases h; exact .pbwr (by omega)

theorem effect_of_execCsrrd {reg : Byte} {s t : State} (h : execCsrrd reg s = .next t) : Effect s (.csrrd reg) t := by
  unfold execCsrrd at h
  split at h
  · next hreg => cases h; exact .csrrd hreg
  · next hreg => cases h; exact .csrrdFault hreg

theorem effect_of_execCsrwr {reg v : Byte} {s t : State} (h : execCsrwr reg v s = .next t) : Effect s (.csrwr reg v) t := by
  unfold execCsrwr at h
  split at h
  · next hreg => cases h; exact .csrwr hreg
  · next hreg => cases h; exact .csrwrFault hreg

/-- A command that answers a next state has one of the effects. -/
theorem effect_of_exec {i : Instr} {s t : State} (h : exec i s = .next t) : Effect s i t := by
  cases i with
  | pbrd idx ch => exact effect_of_execPbrd h
  | pbwr idx ch v => exact effect_of_execPbwr h
  | csrrd reg => exact effect_of_execCsrrd h
  | csrwr reg v => exact effect_of_execCsrwr h
  | _ => cases h; constructor

/-! ## The fields each command leaves -/

@[simp] theorem renderMode_mode (s : State) : (renderMode s).mode = s.mode := by rw [renderMode_frame s]
@[simp] theorem renderMode_tcnt (s : State) : (renderMode s).tcnt = s.tcnt := by rw [renderMode_frame s]
@[simp] theorem renderMode_btnPrev (s : State) : (renderMode s).btnPrev = s.btnPrev := by rw [renderMode_frame s]
@[simp] theorem renderMode_lines (s : State) : (renderMode s).lines = s.lines := by rw [renderMode_frame s]
@[simp] theorem renderMode_draws (s : State) : (renderMode s).draws = s.draws := by rw [renderMode_frame s]
@[simp] theorem renderMode_drawCount (s : State) : (renderMode s).drawCount = s.drawCount := by rw [renderMode_frame s]
@[simp] theorem renderMode_rsp (s : State) : (renderMode s).rsp = s.rsp := by rw [renderMode_frame s]
@[simp] theorem renderMode_done (s : State) : (renderMode s).done = s.done := by rw [renderMode_frame s]

@[simp] theorem render_cfg (s : State) : (render s).cfg = s.cfg := by simp [render]
@[simp] theorem render_mode (s : State) : (render s).mode = s.mode := by simp [render]
@[simp] theorem render_tcnt (s : State) : (render s).tcnt = nextTcnt s.cfg s.tcnt := by simp [render]
@[simp] theorem render_btnPrev (s : State) : (render s).btnPrev = s.btnPrev := by simp [render]
@[simp] theorem render_lines (s : State) : (render s).lines = s.lines := by simp [render]
@[simp] theorem render_fault (s : State) : (render s).fault = s.fault := by simp [render]
@[simp] theorem render_rst (s : State) : (render s).rst = s.rst := by simp [render]
@[simp] theorem render_pending (s : State) : (render s).pending = s.pending := by simp [render]
@[simp] theorem render_draws (s : State) : (render s).draws = s.draws := by simp [render]
@[simp] theorem render_drawCount (s : State) : (render s).drawCount = s.drawCount := by simp [render]
@[simp] theorem render_rsp (s : State) : (render s).rsp = s.rsp := by simp [render]
@[simp] theorem render_done (s : State) : (render s).done = s.done := by simp [render]
@[simp] theorem render_trace (s : State) : (render s).trace = (renderMode s).trace := rfl

@[simp] theorem btnpoll_pb (s : State) : (btnpoll s).pb = s.pb := by rw [btnpoll_frame s]
@[simp] theorem btnpoll_tcnt (s : State) : (btnpoll s).tcnt = s.tcnt := by rw [btnpoll_frame s]
@[simp] theorem btnpoll_rb (s : State) : (btnpoll s).rb = s.rb := by rw [btnpoll_frame s]
@[simp] theorem btnpoll_rp (s : State) : (btnpoll s).rp = s.rp := by rw [btnpoll_frame s]
@[simp] theorem btnpoll_lines (s : State) : (btnpoll s).lines = s.lines := by rw [btnpoll_frame s]
@[simp] theorem btnpoll_rsp (s : State) : (btnpoll s).rsp = s.rsp := by rw [btnpoll_frame s]
@[simp] theorem btnpoll_done (s : State) : (btnpoll s).done = s.done := by rw [btnpoll_frame s]

@[simp] theorem frame_rsp (s : State) : (frame s).rsp = s.rsp := by simp [frame]
@[simp] theorem frame_done (s : State) : (frame s).done = s.done := by simp [frame]

/-- A debug write touches the registers of R190 and FAULT. -/
theorem writeDebug_frame (s : State) (v : Byte) (r : DebugReg) : writeDebug s v r = { s with
    mode := (writeDebug s v r).mode, tcnt := (writeDebug s v r).tcnt, btnPrev := (writeDebug s v r).btnPrev
    rb := (writeDebug s v r).rb, rp := (writeDebug s v r).rp, fault := (writeDebug s v r).fault } := by
  rcases writeDebug_cases s v r with ⟨_, h⟩ | ⟨_, _, h⟩ | ⟨_, _, h⟩ | ⟨_, h⟩ | ⟨_, h⟩ | ⟨_, _, h⟩ <;> rw [h] <;> rfl

@[simp] theorem writeDebug_cfg (s : State) (v : Byte) (r : DebugReg) : (writeDebug s v r).cfg = s.cfg := by
  rw [writeDebug_frame s]
@[simp] theorem writeDebug_pb (s : State) (v : Byte) (r : DebugReg) : (writeDebug s v r).pb = s.pb := by
  rw [writeDebug_frame s]
@[simp] theorem writeDebug_lines (s : State) (v : Byte) (r : DebugReg) : (writeDebug s v r).lines = s.lines := by
  rw [writeDebug_frame s]
@[simp] theorem writeDebug_rst (s : State) (v : Byte) (r : DebugReg) : (writeDebug s v r).rst = s.rst := by
  rw [writeDebug_frame s]
@[simp] theorem writeDebug_pending (s : State) (v : Byte) (r : DebugReg) : (writeDebug s v r).pending = s.pending := by
  rw [writeDebug_frame s]
@[simp] theorem writeDebug_draws (s : State) (v : Byte) (r : DebugReg) : (writeDebug s v r).draws = s.draws := by
  rw [writeDebug_frame s]
@[simp] theorem writeDebug_drawCount (s : State) (v : Byte) (r : DebugReg) :
    (writeDebug s v r).drawCount = s.drawCount := by
  rw [writeDebug_frame s]
@[simp] theorem writeDebug_rsp (s : State) (v : Byte) (r : DebugReg) : (writeDebug s v r).rsp = s.rsp := by
  rw [writeDebug_frame s]
@[simp] theorem writeDebug_done (s : State) (v : Byte) (r : DebugReg) : (writeDebug s v r).done = s.done := by
  rw [writeDebug_frame s]
@[simp] theorem writeDebug_trace (s : State) (v : Byte) (r : DebugReg) : (writeDebug s v r).trace = s.trace := by
  rw [writeDebug_frame s]

/-! ## What a step can do -/

/-- All that the block can do with `rst` low: run a command, reject a word, or wait. -/
theorem proceed_cases {s t : State} (h : s.proceed = .next t) : s.fault = .noFault ∧
    ((∃ w i, s.fetchWord = some w ∧ decode w = .ok i ∧ exec i s.accept = .next t) ∨
     (∃ w e, s.fetchWord = some w ∧ decode w = .error e ∧ t = s.accept.raiseFault .illegalCmd) ∨
     (s.fetchWord = none ∧ t = s.idle)) := by
  unfold State.proceed at h
  split at h
  · cases h
  · next hfault =>
    refine ⟨not_not.mp hfault, ?_⟩
    split at h
    · next w hw =>
      unfold State.runWord at h
      split at h
      · next i hi => exact .inl ⟨w, i, hw, hi, h⟩
      · next e he => cases h; exact .inr (.inl ⟨w, e, hw, he, rfl⟩)
    · next hw => cases h; exact .inr (.inr ⟨hw, rfl⟩)

/-- All that a step can do: go on with `rst` low, reset, or abandon a command to reset (R220). -/
theorem step_cases {s t : State} (h : step s = .next t) : s.cfg.legal = true ∧
    ((s.rst = .low ∧ s.proceed = .next t) ∨ (s.rst = .high ∧ t = s.applyReset) ∨
     ∃ k, s.rst = .rises k ∧ t = s.abandon k { s with rst := .low }.proceed) := by
  unfold step at h
  split at h
  · next hlegal =>
    refine ⟨hlegal, ?_⟩
    split at h
    · next hrst => exact .inl ⟨hrst, h⟩
    · next hrst => cases h; exact .inr (.inl ⟨hrst, rfl⟩)
    · next k hrst => cases h; exact .inr (.inr ⟨k, hrst, rfl⟩)
  · cases h

/-! ## The frame time counter (R25) -/

/-- The ranges of R8 that bound the counters. -/
theorem bounds_of_legal {c : Config} (h : c.legal = true) : 1 ≤ c.n ∧ 1 ≤ c.tPeriod ∧ c.tPeriod ≤ 65535 := by
  simp only [Config.legal, Bool.and_eq_true, decide_eq_true_eq] at h
  omega

/-- The counter advances modulo T_PERIOD: it wraps there before it can wrap at 16 bits. -/
theorem nextTcnt_toNat {c : Config} (hlegal : c.legal = true) {x : BitVec 16} (hx : x.toNat < c.tPeriod) :
    (nextTcnt c x).toNat = (x.toNat + 1) % c.tPeriod := by
  obtain ⟨_, _, hmax⟩ := bounds_of_legal hlegal
  have hsucc : (x + 1).toNat = x.toNat + 1 := by bv_omega
  unfold nextTcnt
  rw [hsucc]
  split
  · next hwrap => simp [hwrap]
  · rw [hsucc, Nat.mod_eq_of_lt (by omega)]

theorem nextTcnt_lt {c : Config} (hlegal : c.legal = true) {x : BitVec 16} (hx : x.toNat < c.tPeriod) :
    (nextTcnt c x).toNat < c.tPeriod := by
  rw [nextTcnt_toNat hlegal hx]
  exact Nat.mod_lt _ (by omega)

theorem execTimes_render_succ (k : Nat) (s : State) :
    Claims.execTimes .render (k + 1) s = Claims.execTimes .render k (render s) := rfl

/-- Settles O38, by induction on the number of RENDERs. -/
theorem frameCounterCycles : Obligations.FrameCounterCycles := by
  intro k
  induction k with
  | zero => exact fun s _ ht => ⟨s, rfl, (Nat.mod_eq_of_lt ht).symm, rfl⟩
  | succ k ih =>
    intro s hlegal ht
    obtain ⟨t, hrun, htcnt, hmode⟩ := ih (render s) (by simpa) (by simpa using nextTcnt_lt hlegal ht)
    refine ⟨t, hrun, ?_, by simpa using hmode⟩
    rw [htcnt, render_cfg, render_tcnt, nextTcnt_toNat hlegal ht, Nat.mod_add_mod, Nat.add_right_comm, Nat.add_assoc]

/-! ## The legal values of the state (R36) -/

theorem rollptRegs_pos_lt {c : Config} (hn : 1 ≤ c.n) (r : RollptRegs) : (rollptRegs c r).pos.toNat < c.n := by
  have hmod : (r.pos.toNat + 1) % c.n < c.n := Nat.mod_lt _ hn
  simp only [rollptRegs, BitVec.toNat_ofNat]
  exact Nat.lt_of_le_of_lt (Nat.mod_le _ _) hmod

theorem wf_drawComets {c : Config} {old new : RollptRegs} {m : Memory} (h : Memory.wf m = true) :
    Memory.wf (drawComets c old new m) = true := by
  rw [drawComets_eq_edits]
  exact wf_foldl_apply _ h

theorem within_drawComets {c : Config} (hn : 1 ≤ c.n) {old new : RollptRegs} {m : Memory}
    (h : Memory.within (3 * c.n) m = true) : Memory.within (3 * c.n) (drawComets c old new m) = true := by
  rw [drawComets_eq_edits]
  exact within_foldl_apply _ h (fun _ he => pixel_lt_of_mem_drawEdits hn he)

section
variable {s : State} (h : s.Inv)
include h

theorem State.Inv.legal : s.cfg.legal = true := by obtain ⟨hlegal, -⟩ := h; exact hlegal
theorem State.Inv.tcnt_lt : s.tcnt.toNat < s.cfg.tPeriod := by obtain ⟨-, htcnt, -⟩ := h; exact htcnt
theorem State.Inv.pos_lt : s.rp.pos.toNat < s.cfg.n := by obtain ⟨-, -, hpos, -⟩ := h; exact hpos
theorem State.Inv.sclk : s.lines.sclk = false := by obtain ⟨-, -, -, hsclk, -⟩ := h; exact hsclk
theorem State.Inv.wf : Memory.wf s.pb = true := by obtain ⟨-, -, -, -, hwf, -⟩ := h; exact hwf
theorem State.Inv.within : Memory.within (3 * s.cfg.n) s.pb = true := by obtain ⟨-, -, -, -, -, hin⟩ := h; exact hin

theorem State.Inv.setPb {m : Memory} (hwf : Memory.wf m = true) (hin : Memory.within (3 * s.cfg.n) m = true) :
    (s.setPb m).Inv :=
  ⟨h.legal, h.tcnt_lt, h.pos_lt, h.sclk, hwf, hin⟩

theorem State.Inv.setTcnt {x : BitVec 16} (hx : x.toNat < s.cfg.tPeriod) : (s.setTcnt x).Inv :=
  ⟨h.legal, hx, h.pos_lt, h.sclk, h.wf, h.within⟩

theorem State.Inv.setRp {x : RollptRegs} (hx : x.pos.toNat < s.cfg.n) : (s.setRp x).Inv :=
  ⟨h.legal, h.tcnt_lt, hx, h.sclk, h.wf, h.within⟩

theorem State.Inv.setLines {l : Lines} (hl : l.sclk = false) : (s.setLines l).Inv :=
  ⟨h.legal, h.tcnt_lt, h.pos_lt, hl, h.wf, h.within⟩

theorem State.Inv.emit (es : List Event) : (s.emit es).Inv := h

/-! ### The commands keep them -/

theorem inv_pbfill (v : Byte) : (pbfill v s).Inv :=
  h.setPb (wf_updateCells h.wf _) (within_updateCells h.within _)

theorem inv_pbdecay (delta : Byte) : (pbdecay delta s).Inv :=
  h.setPb (wf_updateCells h.wf _) (within_updateCells h.within _)

theorem inv_dim (k : Byte) : (dim k s).Inv :=
  h.setPb (wf_repeatPass (f := fun v => shr v 1) _ h.wf) (within_repeatPass (f := fun v => shr v 1) _ h.within)

theorem inv_rainbow : (rainbow s).Inv :=
  h.setPb (wf_rainbowPass h.wf) (within_rainbowPass h.within)

theorem inv_rollpt : (rollpt s).Inv := by
  obtain ⟨hn, -, -⟩ := bounds_of_legal h.legal
  have hfaded : (pbdecay s.cfg.rpDecay s).Inv := inv_pbdecay h _
  have hdrawn := hfaded.setPb (wf_drawComets (c := s.cfg) (old := s.rp) (new := rollptRegs s.cfg s.rp) hfaded.wf)
    (within_drawComets hn hfaded.within)
  exact (hdrawn.setRp (rollptRegs_pos_lt hn s.rp)).emit _

/-- Every drive of a bit ends with SCLK at 0 (R133). -/
theorem inv_txframe : (txframe s).Inv := by
  refine (h.setLines ?_).emit _
  rw [sendBits_lines, h.sclk]
  exact ite_self _

theorem inv_btnpoll : (btnpoll s).Inv := by
  rw [btnpoll_frame]
  exact h

theorem inv_renderMode : (renderMode s).Inv := by
  rcases renderMode_cases s with ⟨_, _, hr⟩ | ⟨_, _, hr⟩ | ⟨_, _, hr⟩ | ⟨_, _, hr⟩ | ⟨_, hr⟩ | ⟨_, hr⟩ | ⟨_, hr⟩ | ⟨_, hr⟩ <;>
    rw [hr]
  · exact inv_rollpt h
  · exact inv_rainbow h
  · exact inv_dim (inv_rollpt h) _
  · exact inv_dim (inv_rainbow h) _
  all_goals exact inv_pbfill h _

theorem inv_render : (render s).Inv :=
  (inv_renderMode h).setTcnt (by simpa using nextTcnt_lt h.legal h.tcnt_lt)

theorem inv_frame : (frame s).Inv := inv_btnpoll (inv_txframe (inv_render h))

theorem inv_writeDebug (v : Byte) (r : DebugReg) : (writeDebug s v r).Inv := by
  rcases writeDebug_cases s v r with ⟨_, hw⟩ | ⟨_, _, hw⟩ | ⟨x, hx, hw⟩ | ⟨_, hw⟩ | ⟨_, hw⟩ | ⟨x, hx, hw⟩ <;> rw [hw]
  case inr.inr.inl => exact h.setTcnt hx
  case inr.inr.inr.inr.inr => exact h.setRp (hx.elim (fun hkept => hkept ▸ h.pos_lt) id)
  all_goals exact h

theorem inv_of_effect {i : Instr} {t : State} (he : Effect s i t) : t.Inv := by
  cases he with
  | nop | pbrd | pbrdFault | pbwrFault | csrrd | csrrdFault | csrwrFault => exact h
  | pbwr hidx => exact h.setPb (Memory.wf_memWrite h.wf _ _ _) (Memory.within_memWrite h.within hidx _ _)
  | pbfill => exact inv_pbfill h _
  | pbdecay => exact inv_pbdecay h _
  | dim => exact inv_dim h _
  | rainbow => exact inv_rainbow h
  | rollpt => exact inv_rollpt h
  | txframe => exact inv_txframe h
  | btnpoll => exact inv_btnpoll h
  | render => exact inv_render h
  | frame => exact inv_frame h
  | csrwr => exact inv_writeDebug h _ _

theorem inv_of_proceed {t : State} (hp : s.proceed = .next t) : t.Inv := by
  obtain ⟨-, ⟨_, _, -, -, hexec⟩ | ⟨_, _, -, -, rfl⟩ | ⟨-, rfl⟩⟩ := proceed_cases hp
  · have haccept : s.accept.Inv := h
    exact inv_of_effect haccept (effect_of_exec hexec)
  · exact h
  · exact h

end

theorem inv_resetOf {c : Config} (h : c.legal = true) : (State.resetOf c).Inv := by
  obtain ⟨hn, hperiod, -⟩ := bounds_of_legal h
  exact ⟨h, hperiod, hn, rfl, rfl, rfl⟩

/-- Settles O52: a step runs a command, waits or resets; the commands keep the legal values and reset gives them. -/
theorem stepKeepsTheInvariant : Obligations.StepKeepsTheInvariant := by
  intro s t h hstep
  obtain ⟨hlegal, ⟨-, hp⟩ | ⟨-, rfl⟩ | ⟨k, -, rfl⟩⟩ := step_cases hstep
  · exact inv_of_proceed h hp
  · exact inv_resetOf hlegal
  · exact inv_resetOf hlegal

/-! ## The output lines (R31) -/

/-- No entry of this piece of the observation drives a line. -/
def NoDrive (es : List Event) : Prop := ∀ e ∈ es, ∀ b, e ≠ .data b ∧ e ≠ .clk b

@[simp] theorem noDrive_nil : NoDrive [] := by simp [NoDrive]
@[simp] theorem noDrive_pace (ms : Nat) (es : List Event) : NoDrive (.pace ms :: es) ↔ NoDrive es := by simp [NoDrive]
@[simp] theorem noDrive_resp (v : Byte) (es : List Event) : NoDrive (.resp v :: es) ↔ NoDrive es := by simp [NoDrive]
@[simp] theorem noDrive_draw (b : Buttons) (es : List Event) : NoDrive (.draw b :: es) ↔ NoDrive es := by simp [NoDrive]

theorem lastData_append (d : Bool) (es fs : List Event) :
    Claims.lastData d (es ++ fs) = Claims.lastData (Claims.lastData d es) fs := List.foldl_append

theorem lastClk_append (d : Bool) (es fs : List Event) :
    Claims.lastClk d (es ++ fs) = Claims.lastClk (Claims.lastClk d es) fs := List.foldl_append

theorem lastData_of_noDrive {es : List Event} (h : NoDrive es) (d : Bool) : Claims.lastData d es = d := by
  induction es with
  | nil => rfl
  | cons e es ih =>
    cases e with
    | data b => exact absurd rfl (h (.data b) List.mem_cons_self b).1
    | clk | pace | resp | draw => exact ih (fun e he => h e (List.mem_cons_of_mem _ he))

theorem lastClk_of_noDrive {es : List Event} (h : NoDrive es) (d : Bool) : Claims.lastClk d es = d := by
  induction es with
  | nil => rfl
  | cons e es ih =>
    cases e with
    | clk b => exact absurd rfl (h (.clk b) List.mem_cons_self b).2
    | data | pace | resp | draw => exact ih (fun e he => h e (List.mem_cons_of_mem _ he))

theorem lastData_bitEvents (bs : List Bool) (d : Bool) : Claims.lastData d (bs.flatMap bitEvents) = bs.getLastD d := by
  induction bs generalizing d with
  | nil => rfl
  | cons b bs ih =>
    rw [List.flatMap_cons, lastData_append, ih, List.getLastD_cons]
    rfl

theorem lastClk_bitEvents (bs : List Bool) (d : Bool) :
    Claims.lastClk d (bs.flatMap bitEvents) = if bs = [] then d else false := by
  induction bs generalizing d with
  | nil => rfl
  | cons b bs ih =>
    rw [List.flatMap_cons, lastClk_append, ih]
    exact ite_self _

/-- From `s` to `t` the lines follow the observation: they hold the levels last driven in what it grew by. -/
def LinesFollow (s t : State) : Prop := ∃ es, t.trace = s.trace ++ es ∧
  t.lines = { sclk := Claims.lastClk s.lines.sclk es, sdata := Claims.lastData s.lines.sdata es }

/-- From `s` to `t` neither line is driven, and both keep their levels. -/
def Undriven (s t : State) : Prop := ∃ es, NoDrive es ∧ t.trace = s.trace ++ es ∧ t.lines = s.lines

theorem Undriven.linesFollow {s t : State} (h : Undriven s t) : LinesFollow s t := by
  obtain ⟨es, hes, htrace, hlines⟩ := h
  exact ⟨es, htrace, by rw [hlines, lastClk_of_noDrive hes, lastData_of_noDrive hes]⟩

theorem LinesFollow.trans {s t u : State} (h : LinesFollow s t) (h' : LinesFollow t u) : LinesFollow s u := by
  obtain ⟨es, htrace, hlines⟩ := h
  obtain ⟨fs, htrace', hlines'⟩ := h'
  exact ⟨es ++ fs, by rw [htrace', htrace, List.append_assoc],
    by rw [hlines', hlines, lastClk_append, lastData_append]⟩

theorem undriven_of_eq {s t : State} (htrace : t.trace = s.trace) (hlines : t.lines = s.lines) : Undriven s t :=
  ⟨[], noDrive_nil, by rw [htrace, List.append_nil], hlines⟩

theorem undriven_rainbow (s : State) : Undriven s (rainbow s) := ⟨[.pace s.cfg.rbPaceMs], by simp, rfl, rfl⟩

theorem undriven_rollpt (s : State) : Undriven s (rollpt s) := ⟨[.pace s.cfg.rpPaceMs], by simp, rfl, rfl⟩

theorem undriven_renderMode (s : State) : Undriven s (renderMode s) := by
  rcases renderMode_cases s with ⟨_, _, hr⟩ | ⟨_, _, hr⟩ | ⟨_, _, hr⟩ | ⟨_, _, hr⟩ | ⟨_, hr⟩ | ⟨_, hr⟩ | ⟨_, hr⟩ | ⟨_, hr⟩ <;>
    rw [hr]
  · exact undriven_rollpt s
  · exact undriven_rainbow s
  · exact undriven_rollpt s
  · exact undriven_rainbow s
  all_goals exact undriven_of_eq rfl rfl

theorem undriven_render (s : State) : Undriven s (render s) := undriven_renderMode s

theorem undriven_btnpoll (s : State) : Undriven s (btnpoll s) := by
  rcases btnpoll_cases s with ⟨_, hb⟩ | ⟨_, _, hb⟩ | ⟨_, _, hb⟩ <;> rw [hb]
  · exact ⟨[.draw s.nextDraw], by simp, by simp, rfl⟩
  all_goals exact ⟨[.draw s.nextDraw, .pace s.cfg.debounceMs, .draw s.secondDraw], by simp, by simp; rfl, rfl⟩

theorem linesFollow_txframe (s : State) : LinesFollow s (txframe s) := by
  have hsettle : NoDrive [.pace s.cfg.txSettleMs] := by simp
  refine ⟨_, txframe_trace s, ?_⟩
  rw [txframe_lines, sendBits_lines, lastClk_append, lastClk_of_noDrive hsettle, lastClk_bitEvents,
    lastData_append, lastData_of_noDrive hsettle, lastData_bitEvents]

theorem linesFollow_frame (s : State) : LinesFollow s (frame s) :=
  ((undriven_render s).linesFollow.trans (linesFollow_txframe _)).trans (undriven_btnpoll _).linesFollow

theorem undriven_of_effect {i : Instr} {s t : State} (he : Effect s i t) (hi : i ∉ [Instr.txframe, .frame]) :
    Undriven s t := by
  cases he with
  | pbrd | csrrd => exact ⟨[.resp _], by simp, rfl, rfl⟩
  | rainbow => exact undriven_rainbow s
  | rollpt => exact undriven_rollpt s
  | btnpoll => exact undriven_btnpoll s
  | render => exact undriven_render s
  | txframe | frame => simp at hi
  | csrwr => exact undriven_of_eq (writeDebug_trace _ _ _) (writeDebug_lines _ _ _)
  | _ => exact undriven_of_eq rfl rfl

theorem linesFollow_of_effect {i : Instr} {s t : State} (he : Effect s i t) : LinesFollow s t := by
  by_cases hi : i ∈ [Instr.txframe, .frame]
  · cases he with
    | txframe => exact linesFollow_txframe s
    | frame => exact linesFollow_frame s
    | _ => simp at hi
  · exact (undriven_of_effect he hi).linesFollow

/-- What the observation grew by is what stands after the old one. -/
theorem drop_trace_eq {s t : State} {es : List Event} (h : t.trace = s.trace ++ es) :
    t.trace.drop s.trace.length = es := by
  rw [h, List.drop_left]

/-- Settles O21: only the bits of TXFRAME drive a line, and sending them ends on the levels last driven. -/
theorem linesHoldTheLastDrivenLevels : Obligations.LinesHoldTheLastDrivenLevels := by
  refine ⟨fun i s t h => ?_, fun _ => rfl⟩
  have he := effect_of_exec h
  obtain ⟨es, htrace, hlines⟩ := linesFollow_of_effect he
  refine ⟨by rw [drop_trace_eq htrace, hlines], by rw [drop_trace_eq htrace, hlines], fun hi => ?_⟩
  obtain ⟨fs, hfs, htrace', hlines'⟩ := undriven_of_effect he hi
  exact ⟨hlines', by rwa [drop_trace_eq htrace']⟩

/-! ## Who writes what (R36) -/

/-- Settles O50, effect by effect: its field laws say what it leaves, and R36 names the command for whatever it does not leave. -/
theorem eachStateItemHasItsWriters : Obligations.EachStateItemHasItsWriters := by
  intro i s t h
  cases effect_of_exec h
  all_goals simp

end Sys2Proof.Machine
end

section
/-! PROOFS. 20_memory.md: what the Pixel Buffer holds after a write. -/

namespace Sys2Proof.Machine

/-! ## The cell commands in range (R110, R111) -/

theorem exec_pbrd_of_lt {s : State} {idx : Byte} (ch : Channel) (h : idx.toNat < s.cfg.n) :
    exec (.pbrd idx ch) s = .next (s.respond (memRead s.pb idx.toNat ch)) :=
  if_neg (Nat.not_le_of_lt h)

theorem exec_pbwr_of_lt {s : State} {idx : Byte} (ch : Channel) (v : Byte) (h : idx.toNat < s.cfg.n) :
    exec (.pbwr idx ch v) s = .next (s.setPb (memWrite s.pb idx.toNat ch v)) :=
  if_neg (Nat.not_le_of_lt h)

/-! ## A read after a write (R67) -/

/-- Settles O17: the read answers from the written buffer, where `memRead_memWrite` tells the written cell from the others. -/
theorem readReturnsTheLastWrite : Obligations.ReadReturnsTheLastWrite := by
  intro s i c v j d hwf hi hj
  let t := s.setPb (memWrite s.pb i.toNat c v)
  have hread : memRead t.pb j.toNat d = if j = i ∧ d = c then v else memRead s.pb j.toNat d := by
    simp only [t, State.setPb_pb, memRead_memWrite hwf, BitVec.toNat_inj]
  exact ⟨t, t.respond (memRead t.pb j.toNat d), exec_pbwr_of_lt c v hi, exec_pbrd_of_lt d hj, congrArg some hread⟩

end Sys2Proof.Machine
end

section
/-! PROOFS. 30_encoding.md: the decoder and the encoder, the step of an offered word, the port, and the pseudo-instructions. -/

namespace Sys2Proof

/-! ## The channel's field (R84) -/

theorem Channel.eq_code_of_ofField {ch : BitVec 2} {c : Channel} : Channel.ofField ch = some c → ch = c.code := by
  revert ch
  cases c <;> decide

theorem Channel.exists_ofField_iff (ch : BitVec 2) : (∃ c, Channel.ofField ch = some c) ↔ ch ≠ 3 := by
  rw [← Option.isSome_iff_exists]
  revert ch
  decide

/-! ## What a row's command is (R82 to R86) -/

/-- The command read from a row's fields has the row's opcode. -/
theorem opcode_of_instrOf {w : CmdWord} {o : Opcode} {i : Instr} (h : o.instrOf w = some i) : i.opcode = o := by
  cases o with
  | pbrd | pbwr =>
    obtain ⟨c, -, rfl⟩ := Option.map_eq_some_iff.mp h
    rfl
  | _ =>
    cases h
    rfl

/-- A row gives a command unless its format has a channel and the word's is 3. -/
theorem exists_instrOf_iff (w : CmdWord) (o : Opcode) : (∃ i, o.instrOf w = some i) ↔ (o.format = .P → chField w ≠ 3) := by
  cases o with
  | pbrd | pbwr => simpa [Opcode.instrOf, Opcode.format] using Channel.exists_ofField_iff (chField w)
  | _ => simp [Opcode.instrOf, Opcode.format]

/-- Every command is read back from the fields of its word. -/
theorem instrOf_encode (i : Instr) : i.opcode.instrOf (encode i) = some i := by
  cases i <;> simp [Instr.opcode, Opcode.instrOf, encode]

/-- The word of every command satisfies its own row of R88. -/
theorem row_encode (i : Instr) : encode i &&& i.opcode.mask = i.opcode.matchWord := by
  cases i with
  | nop => exact Laws.EncodeMatchesRow.nop
  | pbrd idx ch => exact Laws.EncodeMatchesRow.pbrd idx ch
  | pbwr idx ch v => exact Laws.EncodeMatchesRow.pbwr idx ch v
  | pbfill v => exact Laws.EncodeMatchesRow.pbfill v
  | pbdecay delta => exact Laws.EncodeMatchesRow.pbdecay delta
  | dim k => exact Laws.EncodeMatchesRow.dim k
  | rainbow => exact Laws.EncodeMatchesRow.rainbow
  | rollpt => exact Laws.EncodeMatchesRow.rollpt
  | txframe => exact Laws.EncodeMatchesRow.txframe
  | btnpoll => exact Laws.EncodeMatchesRow.btnpoll
  | render => exact Laws.EncodeMatchesRow.render
  | frame => exact Laws.EncodeMatchesRow.frame
  | csrrd reg => exact Laws.EncodeMatchesRow.csrrd reg
  | csrwr reg v => exact Laws.EncodeMatchesRow.csrwr reg v

/-! ## What the decoder does (R89) -/

/-- A word of a row's opcode decodes to the command its fields hold, where the row matches it. -/
theorem decode_eq_ok_iff_of_opField {w : CmdWord} {o : Opcode} (h : opField w = o.number) (i : Instr) :
    decode w = .ok i ↔ w &&& o.mask = o.matchWord ∧ o.instrOf w = some i := by
  by_cases hrow : w &&& o.mask = o.matchWord
  · cases hi : o.instrOf w <;> simp [decode, h, Opcode.ofField_number, hrow, hi]
  · simp [decode, h, Opcode.ofField_number, hrow]

/-- A word whose opcode is in no row decodes to no command. -/
theorem decode_of_ofField_eq_none {w : CmdWord} (h : Opcode.ofField (opField w) = none) :
    decode w = .error .reservedOpcode := by
  simp [decode, h]

/-- A word decodes to a command exactly where some row matches it and reads that command from its fields. -/
theorem decode_eq_ok_iff {w : CmdWord} {i : Instr} :
    decode w = .ok i ↔ ∃ o : Opcode, w &&& o.mask = o.matchWord ∧ o.instrOf w = some i := by
  constructor
  · intro h
    cases ho : Opcode.ofField (opField w) with
    | none => cases (decode_of_ofField_eq_none ho).symm.trans h
    | some o => exact ⟨o, (decode_eq_ok_iff_of_opField (Opcode.ofField_eq_some _ _ ho).symm i).mp h⟩
  · rintro ⟨o, hrow, hi⟩
    exact (decode_eq_ok_iff_of_opField (opField_of_match hrow) i).mpr ⟨hrow, hi⟩

/-- Settles O2: a command's word satisfies the row of its opcode, whose fields read the command back. -/
theorem decodeOfEncodeIsTheCommand : Obligations.DecodeOfEncodeIsTheCommand :=
  fun i => decode_eq_ok_iff.mpr ⟨i.opcode, row_encode i, instrOf_encode i⟩

/-! ## A decoded word is the command's own (R89) -/

/-- Reading the low field and placing it again keeps its bits and clears the rest. -/
theorem placeField_immField (w : CmdWord) : placeField (immField w) 0 = w &&& 0x000000FF := by
  apply BitVec.eq_of_getLsbD_eq; intro i hi
  interval_cases i <;> simp [placeField, immField]

theorem placeField_idxField (w : CmdWord) : placeField (idxField w) 16 = w &&& 0x00FF0000 := by
  apply BitVec.eq_of_getLsbD_eq; intro i hi
  interval_cases i <;> simp [placeField, idxField]

theorem placeField_chField (w : CmdWord) : placeField (chField w) 24 = w &&& 0x03000000 := by
  apply BitVec.eq_of_getLsbD_eq; intro i hi
  interval_cases i <;> simp [placeField, chField]

theorem placeField_zero (width lo : Nat) : placeField 0#width lo = 0#32 := by simp [placeField]

/-- A command read from a word's fields is encoded as the row's match word with the word's own bits outside the mask. -/
theorem encode_of_instrOf {w : CmdWord} {o : Opcode} {i : Instr} (h : o.instrOf w = some i) :
    encode i = o.matchWord ||| (w &&& ~~~o.mask) := by
  rw [Opcode.matchWord_eq]
  cases o with
  | pbrd | pbwr =>
    obtain ⟨c, hc, rfl⟩ := Option.map_eq_some_iff.mp h
    simp [encode, encodeP, ← Channel.eq_code_of_ofField hc, placeField_chField, placeField_idxField, placeField_immField,
      placeField_zero, BitVec.or_assoc, ← BitVec.and_or_distrib_left, Opcode.number, Opcode.mask]
  | _ =>
    cases h
    simp [encode, encodeZ, encodeI, encodeC, placeField_idxField, placeField_immField, placeField_zero, BitVec.or_assoc,
      ← BitVec.and_or_distrib_left, Opcode.number, Opcode.mask]

theorem encode_of_row {w : CmdWord} {o : Opcode} {i : Instr} (hrow : w &&& o.mask = o.matchWord)
    (h : o.instrOf w = some i) : encode i = w := by
  rw [encode_of_instrOf h, ← hrow, ← BitVec.and_or_distrib_left, BitVec.or_not_self, BitVec.and_allOnes]

/-- Settles O3: the decoder's law, row by row, with the rows disjoint by their opcodes. -/
theorem wordsDecodeByExactlyOneRow : Obligations.WordsDecodeByExactlyOneRow := by
  refine fun w => ⟨?_, fun _ _ => Opcode.row_unique, fun i h => ?_⟩
  · calc (∃ i, decode w = .ok i)
        ↔ ∃ o : Opcode, w &&& o.mask = o.matchWord ∧ ∃ i, o.instrOf w = some i := by
          simp only [decode_eq_ok_iff, exists_comm (α := Instr), exists_and_left]
      _ ↔ _ := by simp only [exists_instrOf_iff]; rfl
  · obtain ⟨o, hrow, hi⟩ := decode_eq_ok_iff.mp h
    rw [opcode_of_instrOf hi]
    exact ⟨hrow, encode_of_row hrow hi⟩

/-! ## The illegal words (R90) -/

/-- Among the words of a row's opcode, the illegal ones are those the row's mask or an illegal channel rules out. -/
theorem illegalWord_iff_of_opField {w : CmdWord} {o : Opcode} (h : opField w = o.number) :
    Claims.illegalWord w ↔ ¬(w &&& o.mask = o.matchWord ∧ (o.format = .P → chField w ≠ 3)) := by
  have hop : w.extractLsb' 28 4 = o.number := h
  rw [Opcode.matchWord_eq, ← h, Claims.illegalWord, hop]
  cases o with
  | pbrd => simp only [Opcode.mask, mask_pbrd_iff, not_and_or, or_assoc]; simp [Opcode.number, Opcode.format, chField]
  | pbwr => simp only [Opcode.mask, mask_pbwr_iff, not_and_or, or_assoc]; simp [Opcode.number, Opcode.format, chField]
  | csrrd => simp only [Opcode.mask, mask_csrrd_iff, not_and_or]; simp [Opcode.number, Opcode.format]
  | csrwr => simp only [Opcode.mask, mask_csrwr_iff, not_and_or]; simp [Opcode.number, Opcode.format]
  | pbfill | pbdecay | dim => simp only [Opcode.mask, mask_I_iff]; simp [Opcode.number, Opcode.format]
  | _ => simp only [Opcode.mask, mask_Z_iff]; simp [Opcode.number, Opcode.format]

theorem illegalWord_of_ofField_eq_none {w : CmdWord} (h : Opcode.ofField (opField w) = none) : Claims.illegalWord w := by
  have hop : opField w = 0xE ∨ opField w = 0xF := by
    revert h
    generalize opField w = op
    revert op
    decide
  unfold opField at hop
  obtain h | h := hop <;> simp [Claims.illegalWord, h]

/-- The words R90 lists are those that decode to no command. -/
theorem illegalWord_iff_decode_error (w : CmdWord) : Claims.illegalWord w ↔ ∃ e, decode w = .error e := by
  cases ho : Opcode.ofField (opField w) with
  | none => exact iff_of_true (illegalWord_of_ofField_eq_none ho) ⟨_, decode_of_ofField_eq_none ho⟩
  | some o =>
    have hop : opField w = o.number := (Opcode.ofField_eq_some _ _ ho).symm
    have hok : (∃ i, decode w = .ok i) ↔ w &&& o.mask = o.matchWord ∧ (o.format = .P → chField w ≠ 3) := by
      simp only [decode_eq_ok_iff_of_opField hop, exists_and_left, exists_instrOf_iff]
    rw [illegalWord_iff_of_opField hop, ← hok]
    cases decode w <;> simp

end Sys2Proof

namespace Sys2Proof.Machine

/-! ## The step of an offered word (R80) -/

section
variable {s : State} {w : CmdWord} {rest : List CmdWord} (h : s.Offers w rest)
include h

/-- The word is taken: it leaves the port, the last response is over, and `done` is signalled. -/
theorem accept_of_offers : s.accept = { s with pending := rest, rsp := none, done := true } := by
  obtain ⟨-, ha, hp⟩ := h
  simp [State.accept, ha, hp]

theorem step_of_offers : step s = s.runWord w := by
  obtain ⟨hready, ha, hp⟩ := h
  exact step_of_fetchWord hready (by simp [State.fetchWord, ha, hp])

end

theorem runWord_of_decode_error {w : CmdWord} {e : DecodeError} (s : State) (h : decode w = .error e) :
    s.runWord w = .next (s.accept.raiseFault .illegalCmd) := by
  simp [State.runWord, h]

/-- Settles O4: opcode by opcode the reserved fields are the ones the row's mask covers, and a step that takes a word that decodes to
nothing raises the fault. -/
theorem illegalWordsRaiseIllegalCmd : Obligations.IllegalWordsRaiseIllegalCmd := by
  refine ⟨illegalWord_iff_decode_error, fun w s rest hw h => ?_, rfl⟩
  obtain ⟨e, he⟩ := (illegalWord_iff_decode_error w).mp hw
  rw [step_of_offers h, runWord_of_decode_error s he, accept_of_offers h]
  rfl

/-- Settles O6: the offered word is the one fetched, and taking it is what the statement's record update says. -/
theorem stepRunsTheOfferedCommand : Obligations.StepRunsTheOfferedCommand := by
  intro s w rest i h hi
  rw [step_of_offers h, runWord_of_decode s hi, accept_of_offers h]

/-- Settles O5: each word is a closed input to the decoder. -/
theorem sampleWordsDecode : Obligations.SampleWordsDecode := by
  unfold Obligations.SampleWordsDecode
  decide

/-! ## The port with AUTORUN = 1 (R80, R177) -/

/-- The autonomous block runs FRAME or nothing. -/
theorem eq_frame_of_proceed {s t : State} (ha : s.cfg.autorun = true) (h : s.proceed = .next t) : t = frame s.accept := by
  have hw : s.fetchWord = some sequencerWord := if_pos ha
  obtain ⟨hfault, -⟩ := proceed_cases h
  have hp : s.proceed = .next (frame s.accept) := by
    simp [State.proceed, hfault, hw, runWord_of_decode s decode_sequencerWord, exec, execFrame]
  rw [hp] at h
  cases h
  rfl

/-- An abandoned command of the autonomous block has taken nothing from the port. -/
theorem pendingAfter_proceed_of_autorun (s : State) {u : State} (ha : u.cfg.autorun = true) (hp : u.pending = s.pending) :
    s.pendingAfter u.proceed = s.pending := by
  cases h : u.proceed with
  | next t =>
    rw [eq_frame_of_proceed ha h]
    simp [State.pendingAfter, ha, hp]
  | fault | refused => rfl

theorem cmdReady_of_autorun {s : State} (ha : s.cfg.autorun = true) : s.cmdReady = false := by simp [State.cmdReady, ha]

/-- Settles O57: a step runs FRAME, which leaves the port, or resets, which takes nothing from it. -/
theorem autorunClosesThePort : Obligations.AutorunClosesThePort := by
  intro s t ha h
  refine ⟨cmdReady_of_autorun ha, ?_⟩
  obtain ⟨-, ⟨-, hp⟩ | ⟨-, rfl⟩ | ⟨k, -, rfl⟩⟩ := step_cases h
  · rw [eq_frame_of_proceed ha hp]
    exact ⟨cmdReady_of_autorun (by simpa using ha), by simp [ha], by simp [ha], by simp [State.rspValid]⟩
  · exact ⟨cmdReady_of_autorun ha, rfl, rfl, rfl⟩
  · exact ⟨cmdReady_of_autorun ha, pendingAfter_proceed_of_autorun s ha rfl, rfl, rfl⟩

/-! ## The response (R12, R80) -/

/-- From `s` to `t` no response is emitted, and `rsp` is left. -/
def Silent (s t : State) : Prop := ∃ es, responses es = [] ∧ t.trace = s.trace ++ es ∧ t.rsp = s.rsp

theorem Silent.trans {s t u : State} (h : Silent s t) (h' : Silent t u) : Silent s u := by
  obtain ⟨es, hes, htrace, hrsp⟩ := h
  obtain ⟨fs, hfs, htrace', hrsp'⟩ := h'
  exact ⟨es ++ fs, by rw [responses_append, hes, hfs]; rfl, by rw [htrace', htrace, List.append_assoc], hrsp'.trans hrsp⟩

theorem silent_of_eq {s t : State} (htrace : t.trace = s.trace) (hrsp : t.rsp = s.rsp) : Silent s t :=
  ⟨[], rfl, by rw [htrace, List.append_nil], hrsp⟩

theorem silent_rainbow (s : State) : Silent s (rainbow s) := ⟨[.pace s.cfg.rbPaceMs], rfl, rfl, rfl⟩

theorem silent_rollpt (s : State) : Silent s (rollpt s) := ⟨[.pace s.cfg.rpPaceMs], rfl, rfl, rfl⟩

theorem silent_txframe (s : State) : Silent s (txframe s) :=
  ⟨_, by simp [responses_append, responses], txframe_trace s, rfl⟩

theorem silent_renderMode (s : State) : Silent s (renderMode s) := by
  rcases renderMode_cases s with ⟨_, _, hr⟩ | ⟨_, _, hr⟩ | ⟨_, _, hr⟩ | ⟨_, _, hr⟩ | ⟨_, hr⟩ | ⟨_, hr⟩ | ⟨_, hr⟩ | ⟨_, hr⟩ <;>
    rw [hr]
  · exact silent_rollpt s
  · exact silent_rainbow s
  · exact silent_rollpt s
  · exact silent_rainbow s
  all_goals exact silent_of_eq rfl rfl

theorem silent_render (s : State) : Silent s (render s) := silent_renderMode s

theorem silent_btnpoll (s : State) : Silent s (btnpoll s) := by
  rcases btnpoll_cases s with ⟨_, hb⟩ | ⟨_, _, hb⟩ | ⟨_, _, hb⟩ <;> rw [hb]
  · exact ⟨[.draw s.nextDraw], rfl, rfl, rfl⟩
  all_goals exact ⟨[.draw s.nextDraw, .pace s.cfg.debounceMs, .draw s.secondDraw], rfl, by simp; rfl, rfl⟩

theorem silent_frame (s : State) : Silent s (frame s) :=
  ((silent_render s).trans (silent_txframe _)).trans (silent_btnpoll _)

/-- A command emits no response, or emits one and does nothing else (R110, R191). -/
theorem silent_or_respond_of_effect {i : Instr} {s t : State} (h : Effect s i t) : Silent s t ∨ ∃ v, t = s.respond v := by
  cases h with
  | pbrd | csrrd => exact .inr ⟨_, rfl⟩
  | rainbow => exact .inl (silent_rainbow s)
  | rollpt => exact .inl (silent_rollpt s)
  | txframe => exact .inl (silent_txframe s)
  | btnpoll => exact .inl (silent_btnpoll s)
  | render => exact .inl (silent_render s)
  | frame => exact .inl (silent_frame s)
  | csrwr => exact .inl (silent_of_eq (writeDebug_trace _ _ _) (writeDebug_rsp _ _ _))
  | _ => exact .inl (silent_of_eq rfl rfl)

/-- From a state with no response, a silent piece of a step leaves none. -/
theorem Silent.responses_eq {s t : State} (h : Silent s t) (hs : s.rsp = none) :
    responses (t.trace.drop s.trace.length) = t.rsp.toList := by
  obtain ⟨es, hes, htrace, hrsp⟩ := h
  rw [drop_trace_eq htrace, hes, hrsp, hs]
  rfl

/-- Settles O58: a taken command starts with `rsp` empty and then is silent or responds once; a rejected word and
a wait are silent. -/
theorem responseIsTheOneEmitted : Obligations.ResponseIsTheOneEmitted := by
  intro s t hlow h
  obtain ⟨-, ⟨-, hp⟩ | ⟨hrst, -⟩ | ⟨k, hrst, -⟩⟩ := step_cases h
  · obtain ⟨-, ⟨_, _, -, -, hexec⟩ | ⟨_, _, -, -, rfl⟩ | ⟨-, rfl⟩⟩ := proceed_cases hp
    · obtain hsilent | ⟨v, rfl⟩ := silent_or_respond_of_effect (effect_of_exec hexec)
      · exact hsilent.responses_eq rfl
      · have htrace : (s.accept.respond v).trace = s.trace ++ [.resp v] := rfl
        rw [drop_trace_eq htrace]
        rfl
    · exact (silent_of_eq (s := s.accept) rfl rfl).responses_eq rfl
    · exact (silent_of_eq (s := s.idle) rfl rfl).responses_eq rfl
  · cases hlow.symm.trans hrst
  · cases hlow.symm.trans hrst

/-! ## The pseudo-instructions (R93) -/

theorem asField_toNat {x : Nat} (h : x ≤ 255) : (asField x).toNat = x :=
  Nat.mod_eq_of_lt (by omega)

/-- A PBWR among other commands, the buffer so far being `m`. -/
theorem execAll_pbwr_setPb {s : State} {idx : Byte} (h : idx.toNat < s.cfg.n) (m : Memory) (c : Channel) (v : Byte)
    (is : List Instr) : Claims.execAll (.pbwr idx c v :: is) (s.setPb m) =
      Claims.execAll is (s.setPb (memWrite m idx.toNat c v)) := by
  rw [Claims.execAll, exec_pbwr_of_lt (s := s.setPb m) c v h]
  rfl

/-- The expansion of SETPIX writes one pixel's colour (R93, R111). -/
theorem execAll_setpix {s : State} {i : Nat} (hi : (asField i).toNat < s.cfg.n) (r g b : Nat) :
    Claims.execAll (expandLine s.cfg (.setpix i r g b)) s = .next
      (s.setPb (writePixel s.pb (asField i).toNat { r := asField r, g := asField g, b := asField b })) := by
  show Claims.execAll _ (s.setPb s.pb) = _
  simp only [expandLine, execAll_pbwr_setPb hi]
  rfl

/-- Settles O59: the three PBWRs of the expansion write one pixel's colour, which `memRead_writePixel` reads back. -/
theorem setpixSetsOnePixel : Obligations.SetpixSetsOnePixel := by
  intro s i r g b hwf hi hi255 hr hg hb
  have hline : AsmLine.wellFormed (.setpix i r g b) = true := by simp [AsmLine.wellFormed, fitsField, hi255, hr, hg, hb]
  have hread := memRead_writePixel hwf i (col := { r := asField r, g := asField g, b := asField b })
  have hset := fun c => congrArg BitVec.toNat ((hread i c).trans (if_pos rfl))
  have hrun := execAll_setpix (s := s) (i := i) (by rwa [asField_toNat hi255]) r g b
  rw [asField_toNat hi255] at hrun
  exact ⟨_, _, if_pos hline, hrun, (hset .R).trans (asField_toNat hr), (hset .G).trans (asField_toNat hg),
    (hset .B).trans (asField_toNat hb), fun j c hj => (hread j c).trans (if_neg hj), rfl⟩

/-- Settles O60: the lines' well-formedness is the field's range, and the expansion is R93's table. -/
theorem pseudoInstructionsExpand : Obligations.PseudoInstructionsExpand := by
  intro c v
  simp [commandsOf, AsmLine.wellFormed, fitsField, expandLine, asField]

end Sys2Proof.Machine
end

section
/-! PROOFS. 40_pixel_buffer.md: the encoding part of a command's rule, and the four Pixel Buffer commands. -/

namespace Sys2Proof.Machine

/-! ## The encoding part of a command's rule (R88 to R90) -/

/-- The words of a row's opcode that R90 does not list decode to what the row reads from their fields, and those it
lists raise the fault. -/
theorem encoded_of_row {o : Opcode} {bad : CmdWord → Prop} {good : CmdWord → Instr → Prop}
    (hbad : ∀ w, opField w = o.number → (bad w ↔ Claims.illegalWord w))
    (hgood : ∀ w i, o.instrOf w = some i → good w i) : Claims.Encoded o.number bad good := by
  obtain ⟨hillegal, hraise, -⟩ := illegalWordsRaiseIllegalCmd
  intro w hop
  rw [hbad w hop]
  refine ⟨fun hw s rest => hraise w s rest hw, fun hw => ?_⟩
  cases hi : decode w with
  | error e => exact absurd ((hillegal w).mpr ⟨e, hi⟩) hw
  | ok i =>
    obtain ⟨-, hread⟩ := (decode_eq_ok_iff_of_opField hop i).mp hi
    exact ⟨i, rfl, hgood w i hread⟩

theorem mask_of_format_I {o : Opcode} (h : o.format = .I) : o.mask = 0xFFFFFF00 := by
  cases o with
  | pbfill | pbdecay | dim => rfl
  | _ => cases h

/-- The encoding part of the rule of a format I command (R83). -/
theorem encodedI_of_row {o : Opcode} {mk : Byte → Instr} (hformat : o.format = .I)
    (hmk : ∀ w, o.instrOf w = some (mk (immField w))) : Claims.EncodedI o.number mk := by
  refine encoded_of_row (fun w hop => ?_) (fun w i hi => Option.some.inj (hi.symm.trans (hmk w)))
  rw [illegalWord_iff_of_opField hop, Opcode.matchWord_eq, ← hop, mask_of_format_I hformat, mask_I_iff, hformat]
  simp

/-- A command read from a format P word has the channel of the word's field (R84). -/
theorem exists_channel_of_map_ofField {w : CmdWord} {mk : Channel → Instr} {i : Instr}
    (h : (Channel.ofField (chField w)).map mk = some i) : ∃ ch : Channel, ch.code = w.extractLsb' 24 2 ∧ i = mk ch := by
  obtain ⟨ch, hch, rfl⟩ := Option.map_eq_some_iff.mp h
  exact ⟨ch, (Channel.eq_code_of_ofField hch).symm, rfl⟩

/-! ## The cell commands beyond the last pixel (R110, R111) -/

theorem exec_pbrd_of_le {s : State} {idx : Byte} (ch : Channel) (h : s.cfg.n ≤ idx.toNat) :
    exec (.pbrd idx ch) s = .next (s.raiseFault .badIndex) :=
  if_pos h

theorem exec_pbwr_of_le {s : State} {idx : Byte} (ch : Channel) (v : Byte) (h : s.cfg.n ≤ idx.toNat) :
    exec (.pbwr idx ch v) s = .next (s.raiseFault .badIndex) :=
  if_pos h

/-- Settles O12: an index is below N or not, and the illegal words of opcode 1 are those R90 lists. -/
theorem pbrdRespondsTheCell : Obligations.PbrdRespondsTheCell := by
  refine ⟨fun s idx ch => exec_pbrd_of_lt ch, fun s idx ch => exec_pbrd_of_le ch,
    encoded_of_row (o := .pbrd) (fun w hop => ?_) (fun w i => exists_channel_of_map_ofField)⟩
  unfold opField at hop
  simp [Claims.illegalWord, hop, Opcode.number]

/-- Settles O13: `memRead_memWrite` tells the written cell, and `Memory.read_write` every other address. -/
theorem pbwrWritesOneCell : Obligations.PbwrWritesOneCell := by
  refine ⟨fun s idx ch v hwf h => ⟨_, exec_pbwr_of_lt ch v h, ?_, fun a ha => ?_, rfl⟩,
    fun s idx ch v => exec_pbwr_of_le ch v,
    encoded_of_row (o := .pbwr) (fun w hop => ?_) (fun w i => exists_channel_of_map_ofField)⟩
  · rw [State.setPb_pb, memRead_memWrite hwf, if_pos ⟨rfl, rfl⟩]
  · exact (Memory.read_write hwf _ v a).trans (if_neg ha)
  · unfold opField at hop
    simp [Claims.illegalWord, hop, Opcode.number]

/-! ## Whole-buffer passes (R112, R113) -/

theorem memRead_updateCells_of_lt {n i : Nat} {m : Memory} (h : Memory.wf m = true) (f : Byte → Byte) (c : Channel)
    (hi : i < n) : memRead (updateCells n f m) i c = f (memRead m i c) := by
  rw [memRead_updateCells h, if_pos hi]

/-- A pass leaves what lies beyond the buffer. -/
theorem read_updateCells_of_le {n a : Nat} {m : Memory} (h : Memory.wf m = true) (f : Byte → Byte) (ha : 3 * n ≤ a) :
    Memory.read (updateCells n f m) a = Memory.read m a := by
  obtain ⟨i, c, -, rfl⟩ := exists_cellAddr (n := a + 1) (a := a) (by omega)
  have hi : ¬i < n := fun hi => Nat.not_lt_of_le ha (cellAddr_lt c hi)
  exact (memRead_updateCells h f i c).trans (if_neg hi)

/-- A pass whose change is idempotent is idempotent. -/
theorem updateCells_updateCells {n : Nat} {m : Memory} (h : Memory.wf m = true) {f : Byte → Byte}
    (hf : ∀ v, f (f v) = f v) : updateCells n f (updateCells n f m) = updateCells n f m := by
  have hpass := wf_updateCells (n := n) h f
  refine Memory.ext_of_wf (wf_updateCells hpass f) hpass fun a => ?_
  by_cases ha : a < 3 * n
  · obtain ⟨i, c, hi, rfl⟩ := exists_cellAddr ha
    calc memRead (updateCells n f (updateCells n f m)) i c
        = f (f (memRead m i c)) := by rw [memRead_updateCells_of_lt hpass f c hi, memRead_updateCells_of_lt h f c hi]
      _ = f (memRead m i c) := hf _
      _ = memRead (updateCells n f m) i c := (memRead_updateCells_of_lt h f c hi).symm
  · exact read_updateCells_of_le hpass f (by omega)

/-- Settles O14: the fill is a pass whose change is constant, hence idempotent. -/
theorem pbfillSetsEveryCell : Obligations.PbfillSetsEveryCell := by
  refine ⟨fun s v hwf => ⟨pbfill v s, rfl, fun i c => memRead_updateCells_of_lt hwf (fun _ => v) c,
    fun a => read_updateCells_of_le hwf (fun _ => v), rfl, ?_⟩, encodedI_of_row (o := .pbfill) rfl fun _ => rfl⟩
  have htwice : pbfill v (pbfill v s) = pbfill v s := congrArg s.setPb (updateCells_updateCells hwf fun _ => rfl)
  exact congrArg Host.Outcome.next htwice

/-- Settles O15: the decay is a pass with `satsub8`. -/
theorem pbdecayFloorsEveryCell : Obligations.PbdecayFloorsEveryCell := by
  refine ⟨fun s d hwf => ⟨pbdecay d s, rfl, fun i c hi => ?_, fun a => read_updateCells_of_le hwf (satsub8 · d), rfl⟩,
    encodedI_of_row (o := .pbdecay) rfl fun _ => rfl⟩
  rw [pbdecay_pb, memRead_updateCells_of_lt hwf _ c hi, satsub8_toNat]

end Sys2Proof.Machine
end

section
/-! PROOFS. 41_transmitter.md: the events of a TXFRAME, the lines it leaves, and what a receiver samples. -/

namespace Sys2Proof.Machine

/-! ## The encoding part of a format Z command's rule (R82) -/

theorem mask_of_format_Z {o : Opcode} (h : o.format = .Z) : o.mask = 0xFFFFFFFF := by
  cases o with
  | nop | rainbow | rollpt | txframe | btnpoll | render | frame => rfl
  | _ => cases h

/-- The one word of a format Z command decodes to it, and every other word of its opcode raises the fault. -/
theorem encodedZ_of_row {o : Opcode} {i : Instr} (hformat : o.format = .Z) (hi : ∀ w, o.instrOf w = some i) :
    Claims.EncodedZ o.number i := by
  refine encoded_of_row (fun w hop => ?_) (fun w j hj => Option.some.inj (hj.symm.trans (hi w)))
  rw [illegalWord_iff_of_opField hop, Opcode.matchWord_eq, ← hop, mask_of_format_Z hformat, mask_Z_iff, hformat]
  simp

/-! ## The bits of the buffer (R130) -/

/-- The bits TXFRAME sends are the stream of R132. -/
theorem txBits_eq_stream (n : Nat) (m : Memory) : txBits n m = Claims.stream n m := rfl

theorem txBits_length (n : Nat) (m : Memory) : (txBits n m).length = 24 * n := by
  simp [txBits, channelsBGR, List.length_flatMap, Nat.mul_comm]

theorem txBits_succ (n : Nat) (m : Memory) :
    txBits (n + 1) m = txBits n m ++ channelsBGR.flatMap (fun c => byteBits (memRead m n c)) := by
  simp [txBits, List.range_succ]

/-- The last bit sent is bit 0 of the last pixel's red. -/
theorem txBits_getLast? (m : Memory) {n : Nat} (hn : 0 < n) :
    (txBits n m).getLast? = some ((memRead m (n - 1) .R).getLsbD 0) := by
  obtain ⟨k, rfl⟩ := Nat.exists_eq_add_one.mpr hn
  rw [txBits_succ]
  simp [channelsBGR, byteBits]

/-! ## TXFRAME (R130, R131, R132) -/

/-- TXFRAME touches the lines and the observation. -/
theorem txframe_frame (s : State) : txframe s = { s with lines := (txframe s).lines, trace := (txframe s).trace } := rfl

/-- The lines a TXFRAME leaves, whatever they held before (R130, R133). -/
theorem txframe_lines_of_pos {s : State} (hn : 0 < s.cfg.n) :
    (txframe s).lines = { sclk := false, sdata := (memRead s.pb (s.cfg.n - 1) .R).getLsbD 0 } := by
  have hlast := txBits_getLast? s.pb hn
  have hne : txBits s.cfg.n s.pb ≠ [] := fun h => by simp [h] at hlast
  rw [txframe_lines, sendBits_lines, if_neg hne, List.getLastD_eq_getLast?, hlast]
  rfl

/-- What the observation grows by in a TXFRAME. -/
theorem txframe_events (s : State) : (txframe s).trace.drop s.trace.length =
    (txBits s.cfg.n s.pb).flatMap bitEvents ++ [.pace s.cfg.txSettleMs] :=
  drop_trace_eq (txframe_trace s)

/-- A kind of event that every bit emits once, and a Pace is not, occurs 24N times in a TXFRAME (R131). -/
theorem countP_txframe_events (s : State) {p : Event → Bool} (hbit : ∀ b, (bitEvents b).countP p = 1)
    (hpace : p (.pace s.cfg.txSettleMs) = false) :
    ((txframe s).trace.drop s.trace.length).countP p = 24 * s.cfg.n := by
  have hone : List.countP p ∘ bitEvents = fun _ => 1 := funext hbit
  rw [txframe_events, List.countP_append, List.countP_flatMap, hone]
  simp [hpace, txBits_length]

/-- Settles O18: the frame of TXFRAME, with its lines and its events. -/
theorem txframeSendsTheBuffer : Obligations.TxframeSendsTheBuffer := by
  refine ⟨fun s hn => congrArg Host.Outcome.next ?_, encodedZ_of_row (o := .txframe) rfl fun _ => rfl⟩
  rw [txframe_frame, txframe_lines_of_pos hn, txframe_trace, txBits_eq_stream]
  rfl

/-- Settles O19: each bit of the 24N emits one event of each line kind. -/
theorem txframeEventCount : Obligations.TxframeEventCount := by
  refine fun s => ⟨txframe s, txBits s.cfg.n s.pb, rfl, txBits_length _ _, txframe_events s, ?_, ?_, ?_, ?_⟩
  · exact countP_txframe_events s (by decide) (by simp)
  · exact countP_txframe_events s (by decide) (by simp)
  · exact countP_txframe_events s (by decide) (by simp)
  · rw [txframe_events, paces_append, paces_bitEvents]
    rfl

/-- Settles O20: the receiver samples the bits sent, and the settle Pace adds none. -/
theorem receiverSamplesTheBuffer : Obligations.ReceiverSamplesTheBuffer := by
  intro s t d h
  cases h
  calc sampledBits d ((txframe s).trace.drop s.trace.length)
      = txBits s.cfg.n s.pb ++ [] := by rw [txframe_events, sampledBits_bitEvents_append]; rfl
    _ = Claims.stream s.cfg.n s.pb := by rw [List.append_nil, txBits_eq_stream]

end Sys2Proof.Machine
end

section
/-! PROOFS. 42_generators.md: repeated commands, DIM, RAINBOW, ROLLPT, and what keeps the generators apart. -/

namespace Sys2Proof.Machine

/-! ## Repeated commands -/

/-- A command that always answers `f s`, executed `k` times, answers the `k`-th iterate of `f`. -/
theorem execTimes_eq_iterate {i : Instr} {f : State → State} (h : ∀ s, exec i s = .next (f s)) (k : Nat) (s : State) :
    Claims.execTimes i k s = .next (f^[k] s) := by
  induction k generalizing s with
  | zero => rfl
  | succ k ih => rw [Claims.execTimes, h, Function.iterate_succ_apply]; exact ih (f s)

/-- What a repeated command makes of a part of the state that it computes from that part and the parameters alone. -/
theorem iterate_part {α : Type} {f : State → State} {part : State → α} {g : Config → α → α}
    (hcfg : ∀ s, (f s).cfg = s.cfg) (hpart : ∀ s, part (f s) = g s.cfg (part s)) (k : Nat) (s : State) :
    part (f^[k] s) = (g s.cfg)^[k] (part s) := by
  induction k generalizing s with
  | zero => rfl
  | succ k ih => rw [Function.iterate_succ_apply, ih, hcfg, hpart, Function.iterate_succ_apply]

/-- A counter that advances by `d` modulo `n` each time advances by `k * d` modulo `n` in `k` times. -/
theorem iterate_counter {α : Type} {f : α → α} {count : α → Nat} {d n : Nat}
    (hstep : ∀ x, count (f x) = (count x + d) % n) {x : α} (hx : count x < n) (k : Nat) :
    count (f^[k] x) = (count x + k * d) % n := by
  induction k with
  | zero => rw [Nat.zero_mul, Nat.add_zero, Nat.mod_eq_of_lt hx, Function.iterate_zero_apply]
  | succ k ih => rw [Function.iterate_succ_apply', hstep, ih, Nat.mod_add_mod, Nat.succ_mul, Nat.add_assoc]

/-- Every address from `3n` on is a cell of a pixel from `n` on (R61). -/
theorem exists_cellAddr_of_le {n a : Nat} (ha : 3 * n ≤ a) : ∃ i c, n ≤ i ∧ cellAddr i c = a := by
  obtain ⟨i, c, -, rfl⟩ := exists_cellAddr (n := a + 1) (a := a) (by omega)
  exact ⟨i, c, Nat.le_of_not_lt fun hi => Nat.not_lt_of_le ha (cellAddr_lt c hi), rfl⟩

/-! ## DIM (R155) -/

theorem shr_one_iterate (k : Nat) (v : Byte) : (shr · 1)^[k] v = shr v k := by
  induction k generalizing v with
  | zero => simp
  | succ k ih => rw [Function.iterate_succ_apply, ih, shr_shr, Nat.add_comm]

/-- Repeated passes change a cell of the buffer repeatedly. -/
theorem memRead_repeatPass_of_lt {n i : Nat} (f : Byte → Byte) (c : Channel) (hi : i < n) (k : Nat) {m : Memory}
    (h : Memory.wf m = true) : memRead (repeatPass (updateCells n f) k m) i c = f^[k] (memRead m i c) := by
  induction k generalizing m with
  | zero => rfl
  | succ k ih => rw [repeatPass, ih (wf_updateCells h f), memRead_updateCells_of_lt h f c hi, Function.iterate_succ_apply]

/-- Repeated passes leave what lies beyond the buffer. -/
theorem read_repeatPass_of_le {n a : Nat} (f : Byte → Byte) (ha : 3 * n ≤ a) (k : Nat) {m : Memory}
    (h : Memory.wf m = true) : Memory.read (repeatPass (updateCells n f) k m) a = Memory.read m a := by
  induction k generalizing m with
  | zero => rfl
  | succ k ih => rw [repeatPass, ih (wf_updateCells h f), read_updateCells_of_le h f ha]

/-- Settles O16: `k` one-bit shifts of a cell are one shift by `k`. -/
theorem dimDividesByAPowerOfTwo : Obligations.DimDividesByAPowerOfTwo := by
  refine ⟨fun s k hwf => ⟨dim k s, rfl, fun i c hi => ?_, fun a ha => read_repeatPass_of_le (shr · 1) ha k.toNat hwf, rfl⟩,
    encodedI_of_row (o := .dim) rfl fun _ => rfl⟩
  have hcell : memRead (dim k s).pb i c = (shr · 1)^[k.toNat] (memRead s.pb i c) :=
    memRead_repeatPass_of_lt (shr · 1) c hi k.toNat hwf
  rw [hcell, shr_one_iterate, shr_toNat]

/-! ## Rainbow table entries (R140) -/

theorem Colour.ext_get {col col' : Colour} (h : ∀ c, Colour.get col c = Colour.get col' c) : col = col' := by
  obtain ⟨r, g, b⟩ := col
  obtain ⟨r', g', b'⟩ := col'
  obtain rfl : r = r' := h .R
  obtain rfl : g = g' := h .G
  obtain rfl : b = b' := h .B
  rfl

theorem Colour.get_set (col : Colour) (d : Channel) (v : Byte) (c : Channel) :
    Colour.get (Colour.set col d v) c = if c = d then v else Colour.get col c := by
  cases d <;> cases c <;> rfl

theorem applyEntry_cons (p : Channel × Polarity) (e : RainbowEntry) (st : Byte) (col : Colour) :
    applyEntry (p :: e) st col = applyEntry e st (Colour.set col p.1 (polarityValue p.2 st)) := rfl

/-- A channel the entry does not name keeps its value. -/
theorem get_applyEntry_of_notMem {e : RainbowEntry} {c : Channel} (hc : c ∉ e.map Prod.fst) (st : Byte) (col : Colour) :
    Colour.get (applyEntry e st col) c = Colour.get col c := by
  induction e generalizing col with
  | nil => rfl
  | cons p e ih =>
    obtain ⟨hp, he⟩ := List.ne_and_not_mem_of_not_mem_cons hc
    rw [applyEntry_cons, ih he, Colour.get_set, if_neg hp]

/-- Where the channels are distinct, a named channel takes the byte of its polarity. -/
theorem get_applyEntry_of_mem {e : RainbowEntry} {c : Channel} {p : Polarity} (hnodup : (e.map Prod.fst).Nodup)
    (hmem : (c, p) ∈ e) (st : Byte) (col : Colour) : Colour.get (applyEntry e st col) c = polarityValue p st := by
  induction e generalizing col with
  | nil => cases hmem
  | cons q e ih =>
    obtain ⟨hq, he⟩ := List.nodup_cons.mp hnodup
    rw [applyEntry_cons]
    rcases List.mem_cons.mp hmem with rfl | hmem
    · rw [get_applyEntry_of_notMem hq, Colour.get_set, if_pos rfl]
    · exact ih he hmem _

/-- Of any entry, a channel takes the byte of one polarity, whatever its value, or keeps its value. -/
theorem get_applyEntry_cases (e : RainbowEntry) (c : Channel) :
    (∃ p, ∀ st col, Colour.get (applyEntry e st col) c = polarityValue p st) ∨
    (∀ st col, Colour.get (applyEntry e st col) c = Colour.get col c) := by
  induction e with
  | nil => exact .inr fun _ _ => rfl
  | cons q e ih =>
    rcases ih with ⟨p, hp⟩ | hkeep
    · exact .inl ⟨p, fun st col => hp st _⟩
    · by_cases hc : c = q.1
      · exact .inl ⟨q.2, fun st col => by rw [applyEntry_cons, hkeep, Colour.get_set, if_pos hc]⟩
      · exact .inr fun st col => by rw [applyEntry_cons, hkeep, Colour.get_set, if_neg hc]

/-- An entry applied again forgets the step it was applied with before. -/
theorem applyEntry_applyEntry (e : RainbowEntry) (st st' : Byte) (col : Colour) :
    applyEntry e st' (applyEntry e st col) = applyEntry e st' col := by
  refine Colour.ext_get fun c => ?_
  rcases get_applyEntry_cases e c with ⟨p, hp⟩ | hkeep
  · rw [hp, hp]
  · rw [hkeep, hkeep, hkeep]

/-- The clauses of R8 and R140 about the table. -/
theorem rainbowTable_of_legal {c : Config} (h : c.legal = true) :
    c.rainbowTable.length = 8 ∧ ∀ e ∈ c.rainbowTable, e ≠ [] ∧ (e.map Prod.fst).Nodup := by
  simp only [Config.legal, RainbowEntry.legal, Bool.and_eq_true, decide_eq_true_eq, List.all_eq_true] at h
  obtain ⟨⟨⟨⟨⟨⟨⟨-, hlength⟩, hentries⟩, -⟩, -⟩, -⟩, -⟩, -⟩ := h
  exact ⟨hlength, by simpa using hentries⟩

/-- Settles O23: of a channel, an entry names UP, or DOWN, or nothing. -/
theorem applyEntryDrivesTheNamedChannels : Obligations.ApplyEntryDrivesTheNamedChannels := by
  refine ⟨fun e st col c hnodup => ?_, fun _ => rainbowTable_of_legal⟩
  split
  · next hup => exact get_applyEntry_of_mem hnodup hup st col
  · next hup =>
    split
    · next hdown => exact get_applyEntry_of_mem hnodup hdown st col
    · next hdown =>
      refine get_applyEntry_of_notMem (fun hc => ?_) st col
      obtain ⟨⟨_, p⟩, hp, rfl⟩ := List.mem_map.mp hc
      cases p with
      | up => exact hup hp
      | down => exact hdown hp

/-! ## The Rainbow phase (R142, R143) -/

/-- Selector and counter make up an 11-bit number. -/
theorem selector_counter_lt (sub : BitVec 3) (st : Byte) : 256 * sub.toNat + st.toNat < 2048 := by
  have := sub.isLt
  have := st.isLt
  omega

theorem phase_lt (r : RainbowRegs) : Claims.phase r < 2048 := selector_counter_lt r.sub r.step

/-- They advance together, as that number. -/
theorem phaseAdvance_toNat (sub : BitVec 3) (st inc : Byte) :
    256 * (phaseAdvance sub st inc).1.toNat + (phaseAdvance sub st inc).2.toNat =
      (256 * sub.toNat + st.toNat + inc.toNat) % 2048 := by
  have := sub.isLt
  have := st.isLt
  have := inc.isLt
  simp only [phaseAdvance, add8_toNat, carry8_iff]
  split
  · have hone : (1 : BitVec 3).toNat = 1 := rfl
    rw [BitVec.toNat_add, hone]
    omega
  · omega

theorem phase_rainbowRegs (c : Config) (r : RainbowRegs) :
    Claims.phase (rainbowRegs c r) = (Claims.phase r + c.rbCallStep.toNat) % 2048 :=
  phaseAdvance_toNat r.sub r.step c.rbCallStep

/-- The entry of a sub-mode at a step is the paint of the phase they make up. -/
theorem applyEntry_rainbowEntry (c : Config) (sub : BitVec 3) (st : Byte) (col : Colour) :
    applyEntry (rainbowEntry c sub) st col = Claims.paint c (256 * sub.toNat + st.toNat) col := by
  have := st.isLt
  have hsub : (256 * sub.toNat + st.toNat) / 256 = sub.toNat := by omega
  have hst : (256 * sub.toNat + st.toNat) % 256 = st.toNat := by omega
  rw [Claims.paint, hsub, hst, BitVec.ofNat_toNat, BitVec.setWidth_eq, rainbowEntry]

theorem rainbowSeed_eq_paint (c : Config) (r : RainbowRegs) :
    rainbowSeed c r = Claims.paint c (Claims.phase r) r.seed :=
  applyEntry_rainbowEntry c r.sub r.step r.seed

/-- Within one sub-mode the last paint counts. -/
theorem paint_paint (c : Config) {p p' : Nat} (h : p / 256 = p' / 256) (col : Colour) :
    Claims.paint c p' (Claims.paint c p col) = Claims.paint c p' col := by
  unfold Claims.paint
  rw [h, applyEntry_applyEntry]

/-! ## The pixel pass (R142) -/

/-- What a pixel does to the cursor: paint, then advance. -/
def cursorStep (c : Config) (x : RainbowCursor) : RainbowCursor := cursorAdvance c (cursorPaint c x)

/-- The pass over the first `k` pixels: the cursor it reaches. -/
theorem foldl_rainbowPixel_fst (c : Config) (x : RainbowCursor) (m : Memory) (k : Nat) :
    ((List.range k).foldl (rainbowPixel c) (x, m)).1 = (cursorStep c)^[k] x := by
  induction k with
  | zero => rfl
  | succ k ih =>
    rw [List.range_succ, List.foldl_append, List.foldl_cons, List.foldl_nil, Function.iterate_succ_apply', ← ih]
    rfl

/-- The pass over the first `k` pixels: each has the colour the cursor paints there, and the others are left. -/
theorem memRead_foldl_rainbowPixel (c : Config) (x : RainbowCursor) {m : Memory} (h : Memory.wf m = true) (k i : Nat)
    (ch : Channel) : memRead ((List.range k).foldl (rainbowPixel c) (x, m)).2 i ch =
      if i < k then Colour.get (cursorPaint c ((cursorStep c)^[i] x)).col ch else memRead m i ch := by
  induction k with
  | zero => rfl
  | succ k ih =>
    rw [List.range_succ, List.foldl_append, List.foldl_cons, List.foldl_nil, rainbowPixel,
      memRead_writePixel (wf_foldl_rainbowPixel c _ x h), foldl_rainbowPixel_fst, ih]
    rcases Nat.lt_trichotomy i k with hi | rfl | hi
    · rw [if_neg (by omega), if_pos hi, if_pos (by omega)]
    · rw [if_pos rfl, if_pos (by omega)]
    · rw [if_neg (by omega), if_neg (by omega), if_neg (by omega)]

/-- The local phase `{lm, ls}` as a number. -/
def RainbowCursor.phase (x : RainbowCursor) : Nat := 256 * x.lm.toNat + x.ls.toNat

theorem phase_cursorStep (c : Config) (x : RainbowCursor) :
    (cursorStep c x).phase = (x.phase + c.rbPixStep.toNat) % 2048 :=
  phaseAdvance_toNat x.lm x.ls c.rbPixStep

theorem cursorPaint_col (c : Config) (x : RainbowCursor) : (cursorPaint c x).col = Claims.paint c x.phase x.col :=
  applyEntry_rainbowEntry c x.lm x.ls x.col

theorem cursorStep_col (c : Config) (x : RainbowCursor) : (cursorStep c x).col = (cursorPaint c x).col := rfl

/-- The cursor from which a call with the seeds `col` starts its pass, at the global phase of `r`. -/
def RainbowRegs.cursor (r : RainbowRegs) (col : Colour) : RainbowCursor := { col := col, ls := r.step, lm := r.sub }

/-- The cursor at pixel `i` is at the phase of that pixel (R143). -/
theorem phase_cursorStep_iterate (c : Config) (r : RainbowRegs) (col : Colour) (i : Nat) :
    ((cursorStep c)^[i] (r.cursor col)).phase = Claims.pixelPhase c r i :=
  iterate_counter (x := r.cursor col) (phase_cursorStep c) (phase_lt r) i

/-- The cursor paints pixel `i` with the colour of its phase. -/
theorem cursorPaint_iterate_col (c : Config) (r : RainbowRegs) (col : Colour) (i : Nat) :
    (cursorPaint c ((cursorStep c)^[i] (r.cursor col))).col = Claims.pixelColour c r col i := by
  induction i with
  | zero => rw [cursorPaint_col, phase_cursorStep_iterate]; rfl
  | succ i ih =>
    rw [cursorPaint_col, phase_cursorStep_iterate, Function.iterate_succ_apply', cursorStep_col, ih, Claims.pixelColour]

/-- What the buffer holds after a RAINBOW. -/
theorem memRead_rainbow {s : State} (h : Memory.wf s.pb = true) (i : Nat) (c : Channel) :
    memRead (rainbow s).pb i c = if i < s.cfg.n then Colour.get (Claims.pixelColour s.cfg s.rb (rainbow s).rb.seed i) c
      else memRead s.pb i c := by
  rw [← cursorPaint_iterate_col]
  exact memRead_foldl_rainbowPixel s.cfg _ h s.cfg.n i c

theorem memRead_rainbow_of_lt {s : State} (h : Memory.wf s.pb = true) {i : Nat} (c : Channel) (hi : i < s.cfg.n) :
    memRead (rainbow s).pb i c = Colour.get (Claims.pixelColour s.cfg s.rb (rainbow s).rb.seed i) c := by
  rw [memRead_rainbow h, if_pos hi]

theorem read_rainbow_of_le {s : State} (h : Memory.wf s.pb = true) {a : Nat} (ha : 3 * s.cfg.n ≤ a) :
    Memory.read (rainbow s).pb a = Memory.read s.pb a := by
  obtain ⟨i, c, hi, rfl⟩ := exists_cellAddr_of_le ha
  exact (memRead_rainbow h i c).trans (if_neg (Nat.not_lt_of_le hi))

/-- Settles O24: the seeds are the paint of the phase, the pass follows the cursor, and the phase is one 11-bit number. -/
theorem rainbowPaintsByPhase : Obligations.RainbowPaintsByPhase :=
  ⟨fun s h => ⟨rainbow s, rfl, rainbowSeed_eq_paint s.cfg s.rb, fun _ c => memRead_rainbow_of_lt h c,
    phase_rainbowRegs s.cfg s.rb, fun _ => read_rainbow_of_le h, rfl⟩, encodedZ_of_row (o := .rainbow) rfl fun _ => rfl⟩

/-! ## Repeated RAINBOWs (R143, R144) -/

theorem exec_rainbow (s : State) : exec .rainbow s = .next (rainbow s) := rfl

/-- The Rainbow state after `k` calls. -/
theorem rainbow_iterate_rb (k : Nat) (s : State) : (rainbow^[k] s).rb = (rainbowRegs s.cfg)^[k] s.rb :=
  iterate_part rainbow_cfg rainbow_rb k s

theorem phase_rainbowRegs_iterate (c : Config) (r : RainbowRegs) (k : Nat) :
    Claims.phase ((rainbowRegs c)^[k] r) = (Claims.phase r + k * c.rbCallStep.toNat) % 2048 :=
  iterate_counter (phase_rainbowRegs c) (phase_lt r) k

/-- The pass does not read the buffer (R143). -/
theorem rainbow_setPb {s : State} {m : Memory} (hs : Memory.wf s.pb = true)
    (hsin : Memory.within (3 * s.cfg.n) s.pb = true) (hm : Memory.wf m = true) (hmin : Memory.within (3 * s.cfg.n) m = true) :
    rainbow (s.setPb m) = rainbow s := by
  have hpb : (rainbow (s.setPb m)).pb = (rainbow s).pb :=
    Memory.ext_of_cells (wf_rainbowPass hm) (wf_rainbowPass hs) (within_rainbowPass hmin) (within_rainbowPass hsin)
      fun i c hi => (memRead_rainbow_of_lt (s := s.setPb m) hm c hi).trans (memRead_rainbow_of_lt hs c hi).symm
  exact congrArg (rainbow s).setPb hpb

/-- Pixel 0 has the seed colour: the table entry of its phase has made it already. -/
theorem pixelColour_zero (c : Config) (r : RainbowRegs) : Claims.pixelColour c r (rainbowSeed c r) 0 = rainbowSeed c r := by
  have hphase : Claims.pixelPhase c r 0 = Claims.phase r := by
    simp [Claims.pixelPhase, Nat.mod_eq_of_lt (phase_lt r)]
  rw [Claims.pixelColour, hphase, rainbowSeed_eq_paint, paint_paint c rfl]

/-- Settles O25: the cells tell the whole buffer, and the phase is counted modulo 2048. -/
theorem rainbowIgnoresTheOldBuffer : Obligations.RainbowIgnoresTheOldBuffer := by
  refine ⟨fun s m t u hs hsin hm hmin ht hu => ?_, fun s t h ht i c hi => ?_, fun s t h hn ht c => ?_, fun s k => ?_⟩
  · cases ht
    cases hu
    exact rainbow_setPb hs hsin hm hmin
  · cases ht
    exact memRead_rainbow_of_lt h c hi
  · cases ht
    rw [memRead_rainbow_of_lt h c hn]
    exact congrArg (Colour.get · c) (pixelColour_zero s.cfg s.rb)
  · have hphase : Claims.phase (rainbow^[k] s).rb = (Claims.phase s.rb + k * s.cfg.rbCallStep.toNat) % 2048 := by
      rw [rainbow_iterate_rb, phase_rainbowRegs_iterate]
    refine ⟨rainbow^[k] s, execTimes_eq_iterate exec_rainbow k s, hphase, fun hstep => ?_⟩
    have hlt := phase_lt s.rb
    have h32 : s.cfg.rbCallStep.toNat = 32 := by rw [hstep]; rfl
    rw [hphase, h32]
    omega

/-! ## A full cycle of the default table (R144) -/

/-- Within a sub-mode the seeds of a sweep from its step 0 are those of the last phase painted. -/
theorem seed_rainbowRegs_iterate {c : Config} {r : RainbowRegs} {q : Nat} (hphase : Claims.phase r = 256 * q) (j : Nat)
    (hj : (j + 1) * c.rbCallStep.toNat ≤ 256) (hstep : 0 < c.rbCallStep.toNat) :
    ((rainbowRegs c)^[j + 1] r).seed = Claims.paint c (256 * q + j * c.rbCallStep.toNat) r.seed := by
  have hlt := phase_lt r
  induction j with
  | zero =>
    rw [Nat.zero_mul, Nat.add_zero, ← hphase]
    exact rainbowSeed_eq_paint c r
  | succ j ih =>
    have hj' : (j + 1) * c.rbCallStep.toNat < 256 := by rw [Nat.succ_mul] at hj; omega
    have hle : j * c.rbCallStep.toNat ≤ (j + 1) * c.rbCallStep.toNat := Nat.mul_le_mul_right _ (Nat.le_succ j)
    have hmod : (256 * q + (j + 1) * c.rbCallStep.toNat) % 2048 = 256 * q + (j + 1) * c.rbCallStep.toNat :=
      Nat.mod_eq_of_lt (by omega)
    rw [Function.iterate_succ_apply', rainbowRegs, rainbowSeed_eq_paint, phase_rainbowRegs_iterate, ih hj'.le, hphase, hmod]
    exact paint_paint c (by omega) _

/-- The step at which a sweep from step 0 ends. -/
def lastStep (c : Config) : Byte := BitVec.ofNat 8 (256 - c.rbCallStep.toNat)

/-- The seeds after the sweeps of the first `q` sub-modes: each one's entry, applied at the last step. -/
def sweepSeed (c : Config) (col : Colour) : Nat → Colour
  | 0 => col
  | q + 1 => applyEntry (c.rainbowTable.getD q []) (lastStep c) (sweepSeed c col q)

/-- One sweep of `m` calls. -/
theorem seed_rainbowRegs_iterate_sweep {c : Config} {r : RainbowRegs} {q m : Nat} (hphase : Claims.phase r = 256 * q)
    (hm : m * c.rbCallStep.toNat = 256) :
    ((rainbowRegs c)^[m] r).seed = applyEntry (c.rainbowTable.getD q []) (lastStep c) r.seed := by
  obtain ⟨hpos, hstep⟩ : 0 < m ∧ 0 < c.rbCallStep.toNat := CanonicallyOrderedAdd.mul_pos.mp (by omega)
  obtain ⟨j, rfl⟩ := Nat.exists_eq_add_one.mpr hpos
  have hj : j * c.rbCallStep.toNat = 256 - c.rbCallStep.toNat := by rw [Nat.succ_mul] at hm; omega
  have hentry : (256 * q + (256 - c.rbCallStep.toNat)) / 256 = q := by omega
  have hlast : (256 * q + (256 - c.rbCallStep.toNat)) % 256 = 256 - c.rbCallStep.toNat := by omega
  rw [seed_rainbowRegs_iterate hphase j hm.le hstep, hj, Claims.paint, hentry, hlast, lastStep]

/-- `q` sweeps of `m` calls each, from phase 0. -/
theorem seed_rainbowRegs_iterate_sweeps {c : Config} {r : RainbowRegs} (hphase : Claims.phase r = 0) {m : Nat}
    (hm : m * c.rbCallStep.toNat = 256) (q : Nat) (hq : q ≤ 8) :
    ((rainbowRegs c)^[m * q] r).seed = sweepSeed c r.seed q := by
  induction q with
  | zero => rfl
  | succ q ih =>
    have hstart : Claims.phase ((rainbowRegs c)^[m * q] r) = 256 * q := by
      rw [phase_rainbowRegs_iterate, hphase, Nat.mul_right_comm, hm]
      omega
    rw [Nat.mul_succ, Nat.add_comm, Function.iterate_add_apply, seed_rainbowRegs_iterate_sweep hstart hm, ih (by omega),
      sweepSeed]

/-- The colour whose three channels hold `v`. -/
def greyOf (v : Byte) : Colour := { r := v, g := v, b := v }

/-- In the default table each channel is last driven DOWN (D13). -/
theorem sweepSeed_default {c : Config} (htable : c.rainbowTable = Config.defaultRainbowTable) (col : Colour) :
    sweepSeed c col 8 = greyOf (cpl8 (lastStep c)) := by
  simp only [sweepSeed, htable]
  rfl

theorem eq_of_phase_eq_zero {r : RainbowRegs} (h : Claims.phase r = 0) : r = { sub := 0, step := 0, seed := r.seed } := by
  obtain ⟨sub, step, seed⟩ := r
  unfold Claims.phase at h
  obtain rfl : sub = 0 := BitVec.eq_of_toNat_eq (by simp only at h; bv_omega)
  obtain rfl : step = 0 := BitVec.eq_of_toNat_eq (by simp only at h; bv_omega)
  rfl

/-- A cycle of eight sweeps of `m` calls each ends at phase 0 with seeds that do not depend on those before it. -/
theorem rainbowRegs_iterate_cycle {c : Config} {r : RainbowRegs} {m : Nat}
    (htable : c.rainbowTable = Config.defaultRainbowTable) (hm : m * c.rbCallStep.toNat = 256)
    (hphase : Claims.phase r = 0) :
    (rainbowRegs c)^[m * 8] r = { sub := 0, step := 0, seed := greyOf (cpl8 (lastStep c)) } := by
  have hend : Claims.phase ((rainbowRegs c)^[m * 8] r) = 0 := by
    rw [phase_rainbowRegs_iterate, hphase, Nat.mul_right_comm, hm]
  rw [eq_of_phase_eq_zero hend, seed_rainbowRegs_iterate_sweeps hphase hm 8 le_rfl, sweepSeed_default htable]

/-- Settles O26: a cycle is eight sweeps, of 8 calls for the step 32 and of 256 for the step 1. -/
theorem defaultRainbowCycleEndsAtThirtyOne : Obligations.DefaultRainbowCycleEndsAtThirtyOne := by
  intro s htable hsub hstep
  have hphase : Claims.phase s.rb = 0 := by rw [Claims.phase, hsub, hstep]; rfl
  have hruns := execTimes_eq_iterate exec_rainbow
  refine ⟨fun hcall => ?_, fun hcall => ?_⟩
  · have hlast : cpl8 (lastStep s.cfg) = 31 := by rw [lastStep, hcall]; rfl
    have hcycle : ∀ r, Claims.phase r = 0 →
        (rainbowRegs s.cfg)^[64] r = { sub := 0, step := 0, seed := greyOf 31 } := fun r hr =>
      hlast ▸ rainbowRegs_iterate_cycle (m := 8) htable (by rw [hcall]; rfl) hr
    refine ⟨⟨_, hruns 64 s, by rw [rainbow_iterate_rb, hcycle _ hphase, greyOf]⟩, fun k => ⟨_, _, hruns _ s, hruns _ s, ?_⟩⟩
    have hsplit : 128 + k = k + 64 + 64 := by omega
    rw [rainbow_iterate_rb, rainbow_iterate_rb, hsplit, Nat.add_comm 64 k, Function.iterate_add_apply _ (k + 64),
      Function.iterate_add_apply _ k, Function.iterate_add_apply _ k, hcycle _ hphase, hcycle _ rfl]
  · have hlast : cpl8 (lastStep s.cfg) = 0 := by rw [lastStep, hcall]; rfl
    have hcycle : (rainbowRegs s.cfg)^[256 * 8] s.rb = { sub := 0, step := 0, seed := greyOf 0 } :=
      hlast ▸ rainbowRegs_iterate_cycle (m := 256) htable (by rw [hcall]; rfl) hphase
    exact ⟨_, hruns 2048 s, by rw [rainbow_iterate_rb]; exact hcycle⟩

/-! ## The comet profile and its channels (R145, R146, R148) -/

theorem high_toNat (c : Byte) : (high c).toNat = if c.toNat ≤ 127 then c.toNat else 255 - c.toNat := by
  unfold high
  split
  · rfl
  · exact cpl8_toNat c

theorem high_le (c : Byte) : (high c).toNat ≤ 127 := by
  rw [high_toNat]
  split <;> omega

/-- Settles O27: the rising half is the counter itself, the falling half its complement. -/
theorem triangleWave : Obligations.TriangleWave := fun c => ⟨high_toNat c, high_le c⟩

/-- Settles O28: each choice is an arithmetic primitive. -/
theorem cometCombineChoices : Obligations.CometCombineChoices :=
  ⟨fun old w => ⟨rfl, satadd8_toNat old w, max8_toNat old w⟩, rfl⟩

/-- Settles O32: the table of R146, row by row. -/
theorem cycleChannels : Obligations.CycleChannels := ⟨rfl, rfl, rfl, rfl, rfl, rfl, rfl⟩

theorem nodup_chset : ∀ cyc, (chset cyc).Nodup := by decide

/-! ## The strokes of a ROLLPT (R147) -/

/-- The ten pixels and weights of step 4 of R147, in drawing order. -/
def strokes (c : Config) (pos h : Byte) : List (Nat × Byte) :=
  (cometCentres c pos).flatMap fun centre => (cometWeights h).zipIdx.map fun wj => (cometPixel c.n centre wj.2, wj.1)

/-- The weight of a stroke where it falls on pixel `i`. -/
def strokeOn (i : Nat) (p : Nat × Byte) : Option Byte := if p.1 = i then some p.2 else none

/-- The edits of ROLLPT are those of its strokes. -/
theorem drawEdits_eq_strokes (c : Config) (old new : RollptRegs) : drawEdits c old new =
    (strokes c old.pos (high new.cnt)).flatMap fun p => weightEdits c.cometCombine (chset new.cyc) p.1 p.2 := by
  simp only [drawEdits, strokes, List.flatMap_assoc, List.flatMap_map]
  rfl

theorem emod_eq_iff_cometPixel_eq {c : Config} (hn : 0 < c.n) {centre j i : Nat} :
    ((centre : Int) + (j : Int) - 2) % (c.n : Int) = (i : Int) ↔ cometPixel c.n centre j = i := by
  rw [← pixelMod_cast _ hn, cometPixel, Int.natCast_inj]

/-- The weights that fall on a pixel are those of the strokes on it. -/
theorem hits_eq_strokes {c : Config} (hn : 0 < c.n) (pos h : Byte) (i : Nat) :
    Claims.hits c pos.toNat h i = (strokes c pos h).filterMap (strokeOn i) := by
  simp only [Claims.hits, emod_eq_iff_cometPixel_eq hn]
  simp only [strokes, List.filterMap_flatMap, List.filterMap_map]
  rfl

/-- One weight meets the value of the cells of its pixel on the channels drawn, and no other cell. -/
theorem foldl_onCell_weightEdits {how : CometCombine} {chans : List Channel} (hchans : chans.Nodup) (p : Nat × Byte)
    (i : Nat) (c : Channel) (v : Byte) : (weightEdits how chans p.1 p.2).foldl (CellEdit.onCell i c) v =
      if i = p.1 ∧ c ∈ chans then combine how v p.2 else v := by
  have hcells : (chans.map (Prod.mk p.1)).Nodup := hchans.map (Prod.mk_right_injective p.1)
  have hpass := foldl_onCell_pass (i := i) (c := c) (combine how · p.2) _ v hcells
  rw [List.map_map] at hpass
  simpa [weightEdits, Function.comp_def, and_comm, eq_comm] using hpass

/-- The strokes on a pixel meet the values of the channels drawn, in order, and no other channel. -/
theorem foldl_onCell_strokes {how : CometCombine} {chans : List Channel} (hchans : chans.Nodup) (i : Nat) (c : Channel)
    (ps : List (Nat × Byte)) (v : Byte) :
    (ps.flatMap fun p => weightEdits how chans p.1 p.2).foldl (CellEdit.onCell i c) v =
      if c ∈ chans then (ps.filterMap (strokeOn i)).foldl (combine how) v else v := by
  rw [List.foldl_flatMap]
  induction ps generalizing v with
  | nil => simp
  | cons p ps ih =>
    rw [List.foldl_cons, foldl_onCell_weightEdits hchans, ih]
    by_cases hi : i = p.1
    · by_cases hc : c ∈ chans <;> simp [hc, hi, strokeOn]
    · simp [hi, Ne.symm hi, strokeOn]

/-- What the buffer holds after a ROLLPT: the faded value, met by the strokes on the pixel. -/
theorem memRead_rollpt {s : State} (h : Memory.wf s.pb = true) (i : Nat) (c : Channel) (hi : i < s.cfg.n) :
    memRead (rollpt s).pb i c = if c ∈ chset (rollpt s).rp.cyc then
        ((strokes s.cfg s.rp.pos (high (rollpt s).rp.cnt)).filterMap (strokeOn i)).foldl (combine s.cfg.cometCombine)
          (satsub8 (memRead s.pb i c) s.cfg.rpDecay)
      else satsub8 (memRead s.pb i c) s.cfg.rpDecay := by
  rw [rollpt_pb, drawComets_eq_edits, memRead_foldl_apply _ (wf_updateCells h _), memRead_updateCells_of_lt h _ c hi,
    drawEdits_eq_strokes, foldl_onCell_strokes (nodup_chset _), rollpt_rp]

/-- A ROLLPT leaves what lies beyond the buffer. -/
theorem read_rollpt_of_le {s : State} (hn : 0 < s.cfg.n) (h : Memory.wf s.pb = true) {a : Nat} (ha : 3 * s.cfg.n ≤ a) :
    Memory.read (rollpt s).pb a = Memory.read s.pb a := by
  obtain ⟨i, c, hi, rfl⟩ := exists_cellAddr_of_le ha
  have hne : ∀ e ∈ drawEdits s.cfg s.rp (rollptRegs s.cfg s.rp), ¬(i = e.pixel ∧ c = e.chan) := fun e he hcell => by
    have := pixel_lt_of_mem_drawEdits hn he
    omega
  calc memRead (rollpt s).pb i c
      = memRead (updateCells s.cfg.n (satsub8 · s.cfg.rpDecay) s.pb) i c := by
        rw [rollpt_pb, drawComets_eq_edits, memRead_foldl_apply _ (wf_updateCells h _), foldl_onCell_of_forall_ne _ _ hne]
    _ = memRead s.pb i c := read_updateCells_of_le h _ ha

/-! ## The Rollpoints registers (R147) -/

theorem n_le_of_legal {c : Config} (h : c.legal = true) : c.n ≤ 256 := by
  simp only [Config.legal, Bool.and_eq_true, decide_eq_true_eq] at h
  omega

theorem rollptRegs_pos {c : Config} (h : c.legal = true) (r : RollptRegs) :
    (rollptRegs c r).pos.toNat = (r.pos.toNat + 1) % c.n := by
  obtain ⟨hpos, -, -⟩ := bounds_of_legal h
  have hle := n_le_of_legal h
  have hlt : (r.pos.toNat + 1) % c.n < c.n := Nat.mod_lt _ hpos
  simp only [rollptRegs, BitVec.toNat_ofNat]
  exact Nat.mod_eq_of_lt (by omega)

theorem rollptRegs_cyc (c : Config) (r : RollptRegs) : (rollptRegs c r).cyc.val =
    if 256 ≤ r.cnt.toNat + c.rpStep.toNat then (r.cyc.val + 1) % 7 else r.cyc.val := by
  simp only [rollptRegs, carry8_iff]
  split <;> rfl

theorem rollptRegs_cnt (c : Config) (r : RollptRegs) :
    (rollptRegs c r).cnt.toNat = (r.cnt.toNat + c.rpStep.toNat) % 256 :=
  add8_toNat r.cnt c.rpStep

/-- Settles O29: the fade is a pass, and the strokes are the weights of `Claims.hits`. -/
theorem rollptDrawsTwoComets : Obligations.RollptDrawsTwoComets := by
  refine ⟨fun s hlegal h => ?_, encodedZ_of_row (o := .rollpt) rfl fun _ => rfl⟩
  obtain ⟨hn, -, -⟩ := bounds_of_legal hlegal
  refine ⟨rollpt s, rfl, rollptRegs_cnt s.cfg s.rp, rollptRegs_cyc s.cfg s.rp, rollptRegs_pos hlegal s.rp,
    fun i c hi => ?_, fun a => read_rollpt_of_le hn h, rfl⟩
  rw [memRead_rollpt h i c hi, hits_eq_strokes hn]

/-! ## Disjoint comets (R147, D18) -/

theorem pixelMod_add_inj {n d d' : Nat} (x : Int) (hd : d < n) (hd' : d' < n)
    (h : pixelMod (x + d) n = pixelMod (x + d') n) : d = d' := by
  have hn : 0 < n := by omega
  have hmod : (x + d) ≡ (x + d') [ZMOD n] := by
    rw [Int.ModEq, ← pixelMod_cast _ hn, ← pixelMod_cast _ hn, h]
  have hd'' : d ≡ d' [MOD n] := Int.natCast_modEq_iff.mp (Int.ModEq.add_left_cancel' x hmod)
  exact hd''.eq_of_lt_of_lt hd hd'

theorem cometPixel_mod (n p j : Nat) : cometPixel n (p % n) j = cometPixel n p j := by
  rw [cometPixel, cometPixel, pixelMod, pixelMod, Int.natCast_emod, add_sub_assoc, Int.emod_add_emod, ← add_sub_assoc]

/-- The pixel of weight `j` of a comet centred `off` from `p`, counted from the first pixel of the one centred on `p`. -/
theorem cometPixel_add (n p off j : Nat) :
    cometPixel n (p + off) j = pixelMod ((p : Int) - 2 + ((off + j : Nat) : Int)) n := by
  have hsum : ((p + off : Nat) : Int) + j - 2 = (p : Int) - 2 + ((off + j : Nat) : Int) := by push_cast; ring
  rw [cometPixel, hsum]

/-- The ten places drawn on, counted from the first pixel of the comet at RP_POS. -/
def places (off : Nat) : List Nat := [0, off].flatMap fun o => (List.range 5).map (o + ·)

theorem nodup_places {off : Nat} (h : 5 ≤ off) : (places off).Nodup := by
  simp [places, List.range_succ]
  omega

theorem lt_of_mem_places {off n d : Nat} (hd : d ∈ places off) (hoff : off + 5 ≤ n) : d < n := by
  simp only [places, List.mem_flatMap, List.mem_map, List.mem_range] at hd
  obtain ⟨o, ho, j, hj, rfl⟩ := hd
  simp only [List.mem_cons, List.not_mem_nil, or_false] at ho
  omega

/-- The pixels drawn on are the ten places, taken modulo N. -/
theorem cometPixels_eq_map_places (c : Config) (pos : Byte) :
    ((cometCentres c pos).flatMap fun centre => (List.range 5).map (cometPixel c.n centre)) =
      (places c.rpOffset).map fun d => pixelMod ((pos.toNat : Int) - 2 + (d : Nat)) c.n := by
  have hfirst : cometPixel c.n pos.toNat = fun j => pixelMod ((pos.toNat : Int) - 2 + ((0 + j : Nat) : Int)) c.n :=
    funext fun j => cometPixel_add c.n pos.toNat 0 j
  have hsecond : cometPixel c.n ((pos.toNat + c.rpOffset) % c.n) =
      fun j => pixelMod ((pos.toNat : Int) - 2 + ((c.rpOffset + j : Nat) : Int)) c.n :=
    funext fun j => by rw [cometPixel_mod, cometPixel_add]
  simp only [cometCentres, places, List.flatMap_cons, List.flatMap_nil, List.map_append, List.map_map, hfirst, hsecond]
  rfl

/-- The ten places lie within one turn of a strip of at least ten pixels (D18). -/
theorem nodup_cometPixels {c : Config} (hn : 10 ≤ c.n) (hoff : c.rpOffset = c.n / 2) (pos : Byte) :
    ((cometCentres c pos).flatMap fun centre => (List.range 5).map (cometPixel c.n centre)).Nodup := by
  have hlt : ∀ d ∈ places c.rpOffset, d < c.n := fun d hd => lt_of_mem_places hd (by omega)
  rw [cometPixels_eq_map_places]
  exact (nodup_places (by omega)).map_on fun d hd d' hd' => pixelMod_add_inj _ (hlt d hd) (hlt d' hd')

theorem map_fst_strokes (c : Config) (pos h : Byte) : (strokes c pos h).map Prod.fst =
    (cometCentres c pos).flatMap fun centre => (List.range 5).map (cometPixel c.n centre) := by
  simp only [strokes, List.map_flatMap, List.map_map]
  rfl

theorem mem_strokes {c : Config} {pos : Byte} {centre j : Nat} (hcentre : centre ∈ cometCentres c pos) (hj : j < 5)
    (h : Byte) : (cometPixel c.n centre j, (cometWeights h).getD j 0) ∈ strokes c pos h := by
  have hw : ((cometWeights h).getD j 0, j) ∈ (cometWeights h).zipIdx := by
    rw [List.mem_zipIdx_iff_getElem?]
    interval_cases j <;> rfl
  exact List.mem_flatMap.mpr ⟨centre, hcentre, List.mem_map.mpr ⟨_, hw, rfl⟩⟩

/-- Where the pixels of the strokes are distinct, each has its one stroke. -/
theorem filterMap_strokeOn {ps : List (Nat × Byte)} (hnodup : (ps.map Prod.fst).Nodup) {i : Nat} {w : Byte}
    (hmem : (i, w) ∈ ps) : ps.filterMap (strokeOn i) = [w] := by
  induction ps with
  | nil => cases hmem
  | cons q ps ih =>
    obtain ⟨hq, hps⟩ := List.nodup_cons.mp hnodup
    rcases List.mem_cons.mp hmem with rfl | hmem
    · have hrest : ps.filterMap (strokeOn i) = [] := List.filterMap_eq_nil_iff.mpr fun p hp =>
        if_neg fun heq => hq (List.mem_map.mpr ⟨p, hp, heq⟩)
      simp [strokeOn, hrest]
    · have hqi : q.1 ≠ i := fun heq => hq (List.mem_map.mpr ⟨_, hmem, heq.symm⟩)
      simp [strokeOn, hqi, ← ih hps hmem]

/-- Settles O30: distinct places give distinct pixels, and a pixel with one stroke takes its weight. -/
theorem cometsAreDisjointFromTenPixels : Obligations.CometsAreDisjointFromTenPixels := by
  refine ⟨fun c pos hn hoff => nodup_cometPixels hn hoff pos, fun s t _ h hn hoff ht centre hcentre j hj ch hch => ?_⟩
  cases ht
  have hlt : cometPixel s.cfg.n centre j < s.cfg.n := pixelMod_lt _ (by omega)
  have hnodup : ((strokes s.cfg s.rp.pos (high (rollpt s).rp.cnt)).map Prod.fst).Nodup := by
    rw [map_fst_strokes]
    exact nodup_cometPixels hn hoff s.rp.pos
  rw [memRead_rollpt h _ ch hlt, if_pos hch, filterMap_strokeOn hnodup (mem_strokes hcentre hj _)]
  rfl

/-! ## Repeated ROLLPTs (R149) -/

theorem exec_rollpt (s : State) : exec .rollpt s = .next (rollpt s) := rfl

/-- The Rollpoints state after `k` calls. -/
theorem rollpt_iterate_rp (k : Nat) (s : State) : (rollpt^[k] s).rp = (rollptRegs s.cfg)^[k] s.rp :=
  iterate_part rollpt_cfg rollpt_rp k s

/-- RP_CYC and RP_CNT as one number, which a call advances modulo 7 * 256. -/
def RollptRegs.count (r : RollptRegs) : Nat := 256 * r.cyc.val + r.cnt.toNat

theorem RollptRegs.count_lt (r : RollptRegs) : r.count < 1792 := by
  have := r.cyc.isLt
  have := r.cnt.isLt
  unfold RollptRegs.count
  omega

theorem count_rollptRegs (c : Config) (r : RollptRegs) :
    (rollptRegs c r).count = (r.count + c.rpStep.toNat) % 1792 := by
  have := r.cyc.isLt
  have := r.cnt.isLt
  have := c.rpStep.isLt
  simp only [RollptRegs.count, rollptRegs_cyc, rollptRegs_cnt]
  split <;> omega

theorem count_rollptRegs_iterate (c : Config) (r : RollptRegs) (k : Nat) :
    ((rollptRegs c)^[k] r).count = (r.count + k * c.rpStep.toNat) % 1792 :=
  iterate_counter (count_rollptRegs c) r.count_lt k

/-- The count tells the cycle and the counter. -/
theorem RollptRegs.cyc_val_eq (r : RollptRegs) : r.cyc.val = r.count / 256 := by
  have := r.cnt.isLt
  unfold RollptRegs.count
  omega

theorem RollptRegs.cnt_toNat_eq (r : RollptRegs) : r.cnt.toNat = r.count % 256 := by
  have := r.cnt.isLt
  unfold RollptRegs.count
  omega

theorem rollptRegs_iterate_pos {c : Config} (h : c.legal = true) {r : RollptRegs} (hr : r.pos.toNat < c.n) (k : Nat) :
    ((rollptRegs c)^[k] r).pos.toNat = (r.pos.toNat + k) % c.n := by
  have hpos := iterate_counter (count := fun r : RollptRegs => r.pos.toNat) (rollptRegs_pos h) hr k
  rwa [Nat.mul_one] at hpos

/-- Settles O31: the halvings of a number of at most 127, and the two counters of a call, taken modulo their ranges. -/
theorem rollptBoundsAndPeriods : Obligations.RollptBoundsAndPeriods := by
  have hruns := execTimes_eq_iterate exec_rollpt
  refine ⟨fun c => ?_, fun v d => ⟨?_, fun hvd => ?_⟩, fun s hstep _ => ?_, fun s hlegal hpos k => ?_⟩
  · have := high_le c
    simp only [shr_toNat]
    omega
  · rw [satsub8_toNat]
    omega
  · exact BitVec.eq_of_toNat_eq (by rw [satsub8_toNat, Nat.sub_eq_zero_of_le hvd]; rfl)
  · have := s.rp.cyc.isLt
    have hcyc := s.rp.cyc_val_eq
    have hcnt := s.rp.cnt_toNat_eq
    have hcount : ∀ k, (rollpt^[k] s).rp.count = (s.rp.count + k * 4) % 1792 := fun k => by
      rw [rollpt_iterate_rp, count_rollptRegs_iterate, hstep]
      rfl
    refine ⟨⟨_, hruns 64 s, BitVec.eq_of_toNat_eq ?_, ?_⟩, ⟨_, hruns 448 s, BitVec.eq_of_toNat_eq ?_, Fin.ext ?_⟩⟩
    · rw [RollptRegs.cnt_toNat_eq, hcount]
      omega
    · rw [RollptRegs.cyc_val_eq, hcount]
      omega
    · rw [RollptRegs.cnt_toNat_eq, hcount]
      omega
    · rw [RollptRegs.cyc_val_eq, hcount]
      omega
  · refine ⟨_, hruns k s, ?_⟩
    rw [← BitVec.toNat_inj, rollpt_iterate_rp, rollptRegs_iterate_pos hlegal hpos]
    calc (s.rp.pos.toNat + k) % s.cfg.n = s.rp.pos.toNat
        ↔ s.rp.pos.toNat + k ≡ s.rp.pos.toNat [MOD s.cfg.n] := by rw [Nat.ModEq, Nat.mod_eq_of_lt hpos]
      _ ↔ s.cfg.n ∣ k := Nat.add_modEq_left_iff

/-! ## Separate state (R156) -/

/-- Settles O33: the field laws of each command name its own items and no other generator's. -/
theorem generatorsArePrivate : Obligations.GeneratorsArePrivate := by
  refine ⟨fun s t ht => ?_, fun s t ht => ?_, fun s t v ht => ?_,
    fun s s' t t' v hcfg hpb => ⟨fun ht ht' => ?_, fun ht ht' => ?_⟩⟩
  · cases ht
    refine ⟨rainbow_rp s, fun s' t' hcfg hpb hrb ht' => ?_⟩
    cases ht'
    simp [hcfg, hpb, hrb]
  · cases ht
    refine ⟨rollpt_rb s, fun s' t' hcfg hpb hrp ht' => ?_⟩
    cases ht'
    simp [hcfg, hpb, hrp]
  · rcases ht with ht | ht
    · cases ht
      exact ⟨pbfill_rb v s, pbfill_rp v s⟩
    · cases ht
      exact ⟨dim_rb v s, dim_rp v s⟩
  · cases ht
    cases ht'
    simp [hcfg, hpb]
  · cases ht
    cases ht'
    simp [hcfg, hpb]

end Sys2Proof.Machine
end

section
/-! PROOFS. 43_sequencer.md: the autonomous run, the button poll, the renderer, and the main-loop iteration. -/

namespace Sys2Proof.Machine

/-! ## What a receiver samples (R132) -/

/-- A receiver samples one bit for each rising edge of the clock line. -/
theorem sampledBits_length (d : Bool) (es : List Event) : (sampledBits d es).length = es.count (.clk true) := by
  induction es generalizing d with
  | nil => rfl
  | cons e es ih =>
    cases e with
    | clk b => cases b <;> simp [sampledBits, ih]
    | data | pace | resp | draw => simp [sampledBits, ih]

/-- What drives no line before a piece of the observation does not change what is sampled from that piece. -/
theorem sampledBits_append_of_noDrive {es : List Event} (h : NoDrive es) (d : Bool) (fs : List Event) :
    sampledBits d (es ++ fs) = sampledBits d fs := by
  induction es with
  | nil => rfl
  | cons e es ih =>
    cases e with
    | data b | clk b => simpa using h _ List.mem_cons_self b
    | pace | resp | draw => exact ih (fun e he => h e (List.mem_cons_of_mem _ he))

theorem sampledBits_of_noDrive {es : List Event} (h : NoDrive es) (d : Bool) : sampledBits d es = [] := by
  simpa [sampledBits] using sampledBits_append_of_noDrive h d []

/-- Over a whole FRAME a receiver samples the bits of the rendered buffer: RENDER and BTNPOLL drive no line (R176). -/
theorem sampledBits_frame (s : State) (d : Bool) :
    sampledBits d ((frame s).trace.drop s.trace.length) = txBits s.cfg.n (render s).pb := by
  obtain ⟨es, hes, hrender, -⟩ := undriven_render s
  obtain ⟨fs, hfs, hpoll, -⟩ := undriven_btnpoll (txframe (render s))
  have hsettle : NoDrive (.pace s.cfg.txSettleMs :: fs) := (noDrive_pace _ fs).mpr hfs
  have htrace : (frame s).trace = s.trace ++
      (es ++ ((txBits s.cfg.n (render s).pb).flatMap bitEvents ++ .pace s.cfg.txSettleMs :: fs)) := by
    rw [frame, hpoll, txframe_trace, hrender]
    simp
  rw [drop_trace_eq htrace, sampledBits_append_of_noDrive hes, sampledBits_bitEvents_append,
    sampledBits_of_noDrive hsettle, List.append_nil]

/-! ## The autonomous run (R177) -/

/-- With AUTORUN = 1 a command is taken from the sequencer: only the transfer signals change. -/
theorem accept_of_autorun {s : State} (ha : s.cfg.autorun = true) : s.accept = { s with rsp := none, done := false } := by
  simp [State.accept, ha]

/-- Settles O7: the word fetched is the sequencer's, which decodes to FRAME. -/
theorem autorunStepRunsFrame : Obligations.AutorunStepRunsFrame := by
  intro s h ha
  rw [step_of_autorun h ha, accept_of_autorun ha]
  rfl

/-- From `s` to `t` lie `k` iterations of the main loop: TCNT has counted them (R25), and each has sent 24N bits (R131), one on each
rising clock edge. -/
def Iterated (k : Nat) (s t : State) : Prop :=
  t.cfg = s.cfg ∧ t.tcnt.toNat = (s.tcnt.toNat + k) % s.cfg.tPeriod ∧
    ∃ es, t.trace = s.trace ++ es ∧ es.count (.clk true) = 24 * s.cfg.n * k

theorem Iterated.refl {s : State} (h : s.Inv) : Iterated 0 s s :=
  ⟨rfl, (Nat.mod_eq_of_lt h.tcnt_lt).symm, [], by simp, rfl⟩

theorem Iterated.trans {j k : Nat} {s t u : State} (h : Iterated j s t) (h' : Iterated k t u) : Iterated (j + k) s u := by
  obtain ⟨hcfg, htcnt, es, htrace, hes⟩ := h
  obtain ⟨hcfg', htcnt', fs, htrace', hfs⟩ := h'
  refine ⟨hcfg'.trans hcfg, ?_, es ++ fs, by rw [htrace', htrace, List.append_assoc], ?_⟩
  · rw [htcnt', htcnt, hcfg, Nat.mod_add_mod, Nat.add_assoc]
  · rw [List.count_append, hes, hfs, hcfg, Nat.mul_add]

/-- One FRAME is one iteration. -/
theorem iterated_frame {s : State} (h : s.Inv) : Iterated 1 s (frame s) := by
  obtain ⟨es, htrace, -⟩ := linesFollow_frame s
  have htcnt : (frame s).tcnt = nextTcnt s.cfg s.tcnt := by simp [frame]
  refine ⟨frame_cfg s, by rw [htcnt, nextTcnt_toNat h.legal h.tcnt_lt], es, htrace, ?_⟩
  calc es.count (.clk true)
      = (sampledBits false ((frame s).trace.drop s.trace.length)).length := by rw [drop_trace_eq htrace, sampledBits_length]
    _ = 24 * s.cfg.n * 1 := by rw [sampledBits_frame, txBits_length, Nat.mul_one]

/-- `k` steps of the autonomous block are `k` iterations. -/
theorem run_iterated_of_autorun (k : Nat) {s : State} (h : s.Ready) (hinv : s.Inv) (ha : s.cfg.autorun = true) :
    ∃ t, Host.Core.run core k s = .next t ∧ t.Inv ∧ Iterated k s t := by
  induction k generalizing s with
  | zero => exact ⟨s, rfl, hinv, .refl hinv⟩
  | succ k ih =>
    have hstep := step_of_autorun h ha
    have haccept : s.accept.Inv := hinv
    have hfirst : Iterated 1 s (frame s.accept) := iterated_frame haccept
    have hready : (frame s.accept).Ready := by simpa [State.Ready] using h
    obtain ⟨t, hrun, ht, hrest⟩ := ih hready (inv_frame haccept) (by simpa using ha)
    exact ⟨t, (run_succ_of_step core k hstep).trans hrun, ht, Nat.add_comm 1 k ▸ hfirst.trans hrest⟩

/-- Settles O56: each step is one iteration of the main loop, and iterations add up. -/
theorem autonomousRunSendsOneFrameAStep : Obligations.AutonomousRunSendsOneFrameAStep := by
  intro k s d h hinv ha
  obtain ⟨t, hrun, ht, -, htcnt, es, htrace, hes⟩ := run_iterated_of_autorun k h hinv ha
  exact ⟨t, hrun, ht, htcnt, by rw [drop_trace_eq htrace, sampledBits_length, hes]⟩

/-! ## The button poll (R171, R172) -/

theorem nextMode_val_eq_ite : ∀ m : Fin 6, (nextMode m).val = if m.val = 5 then 0 else m.val + 1 := by decide

theorem nextMode_val : ∀ m : Fin 6, (nextMode m).val = (m.val + 1) % 6 := by decide

theorem exec_btnpoll (s : State) : exec .btnpoll s = .next (btnpoll s) := rfl

/-- After a rising edge the second sample, with the debounce Pace before it, decides only whether MODE advances. -/
theorem btnpoll_of_edge {s : State} (h : risingEdges s.nextDraw s.btnPrev ≠ 0) : btnpoll s = { s with
    mode := if s.secondDraw = 0 then s.mode else nextMode s.mode
    btnPrev := s.nextDraw, draws := s.draws.tail.tail, drawCount := s.drawCount + 2
    trace := s.trace ++ [.draw s.nextDraw, .pace s.cfg.debounceMs, .draw s.secondDraw] } := by
  have htrace : s.trace ++ [.draw s.nextDraw, .pace s.cfg.debounceMs, .draw s.secondDraw] =
    s.trace ++ [.draw s.nextDraw] ++ [.pace s.cfg.debounceMs] ++ [.draw s.secondDraw] := by simp
  rw [htrace]
  by_cases h2 : s.secondDraw = 0
  · rw [btnpoll_rejected h h2, if_pos h2]
    rfl
  · rw [btnpoll_confirmed h h2, if_neg h2]
    rfl

/-- Settles O34: the two cases of the first sample, with the cyclic advance as a number. -/
theorem btnpollAdvancesOnConfirmedEdges : Obligations.BtnpollAdvancesOnConfirmedEdges := by
  refine ⟨fun s h => congrArg Host.Outcome.next (btnpoll_no_edge h), fun s h => ?_,
    encodedZ_of_row (o := .btnpoll) rfl fun _ => rfl⟩
  refine ⟨if s.secondDraw = 0 then s.mode else nextMode s.mode, ?_, congrArg Host.Outcome.next (btnpoll_of_edge h)⟩
  rw [apply_ite Fin.val, nextMode_val_eq_ite]
  rfl

/-- A mask sampled with no bit that was clear before: MODE stays, and one sample is used up. -/
theorem btnpoll_of_draws_no_edge {s : State} {b : Buttons} {bs : List Buttons} (hdraws : s.draws = b :: bs)
    (hedge : risingEdges b s.btnPrev = 0) :
    (btnpoll s).mode = s.mode ∧ (btnpoll s).btnPrev = b ∧ (btnpoll s).draws = bs := by
  have hb : s.nextDraw = b := State.nextDraw_cons hdraws
  rw [btnpoll_no_edge (hb ▸ hedge)]
  exact ⟨rfl, hb, congrArg List.tail hdraws⟩

/-- A mask sampled with a bit that was clear before, and a nonzero sample after it: MODE advances, and both samples are used up. -/
theorem btnpoll_of_draws_confirmed {s : State} {b b' : Buttons} {bs : List Buttons} (hdraws : s.draws = b :: b' :: bs)
    (hedge : risingEdges b s.btnPrev ≠ 0) (hb' : b' ≠ 0) :
    (btnpoll s).mode = nextMode s.mode ∧ (btnpoll s).btnPrev = b ∧ (btnpoll s).draws = bs := by
  have hb : s.nextDraw = b := State.nextDraw_cons hdraws
  have hsecond : s.secondDraw = b' := State.nextDraw_cons (congrArg List.tail hdraws)
  rw [btnpoll_confirmed (hb ▸ hedge) (hsecond ▸ hb')]
  exact ⟨rfl, hb, congrArg (fun ds => ds.tail.tail) hdraws⟩

theorem risingEdges_self (b : Buttons) : risingEdges b b = 0 := by simp [risingEdges]

theorem risingEdges_zero (b : Buttons) : risingEdges b 0 = b := by
  rw [risingEdges, BitVec.ofNat_eq_ofNat, BitVec.not_zero, BitVec.and_allOnes]

theorem zero_risingEdges (b : Buttons) : risingEdges 0 b = 0 := by simp [risingEdges]

/-- A release and a confirmed press, polled one after the other, advance MODE by one. -/
theorem btnpoll_btnpoll_of_press {s : State} {b b' : Buttons} {bs : List Buttons} (hdraws : s.draws = 0 :: b :: b' :: bs)
    (hb : b ≠ 0) (hb' : b' ≠ 0) :
    (btnpoll (btnpoll s)).mode = nextMode s.mode ∧ (btnpoll (btnpoll s)).draws = bs := by
  obtain ⟨hmode, hprev, hrest⟩ := btnpoll_of_draws_no_edge hdraws (zero_risingEdges _)
  obtain ⟨hmode', -, hrest'⟩ := btnpoll_of_draws_confirmed hrest (by rwa [hprev, risingEdges_zero]) hb'
  exact ⟨hmode'.trans (congrArg nextMode hmode), hrest'⟩

/-- Settles O35, by induction on the presses, two polls each. -/
theorem confirmedPressesCycleTheMode : Obligations.ConfirmedPressesCycleTheMode := by
  intro presses s rest hpresses hdraws
  refine ⟨_, execTimes_eq_iterate exec_btnpoll _ s, ?_⟩
  induction presses generalizing s with
  | nil => exact ⟨(Nat.mod_eq_of_lt s.mode.isLt).symm, hdraws⟩
  | cons p presses ih =>
    obtain ⟨hp, hp'⟩ := hpresses p List.mem_cons_self
    obtain ⟨hmode, hrest⟩ := btnpoll_btnpoll_of_press hdraws hp hp'
    obtain ⟨hmodes, hdrawn⟩ := ih (btnpoll (btnpoll s)) (fun q hq => hpresses q (List.mem_cons_of_mem _ hq)) hrest
    rw [List.length_cons, Nat.mul_succ, Function.iterate_add_apply]
    refine ⟨hmodes.trans ?_, hdrawn⟩
    rw [hmode, nextMode_val, Nat.mod_add_mod, Nat.add_assoc, Nat.add_comm 1]

/-- Polls of a mask that is held already change neither BTNPREV nor MODE. -/
theorem btnpoll_iterate_of_held {b : Buttons} (k : Nat) {s : State} {rest : List Buttons}
    (hdraws : s.draws = List.replicate k b ++ rest) (hprev : s.btnPrev = b) :
    (btnpoll^[k] s).mode = s.mode ∧ (btnpoll^[k] s).btnPrev = b := by
  induction k generalizing s with
  | zero => exact ⟨rfl, hprev⟩
  | succ k ih =>
    obtain ⟨hmode, hprev', hrest⟩ := btnpoll_of_draws_no_edge hdraws (hprev ▸ risingEdges_self b)
    rw [Function.iterate_succ_apply, ← hmode]
    exact ih hrest hprev'

/-- Settles O36: the first poll sees the edge or none, and the polls after it see the mask held. -/
theorem heldButtonAdvancesOnce : Obligations.HeldButtonAdvancesOnce := by
  intro k b s rest hdraws
  refine ⟨_, execTimes_eq_iterate exec_btnpoll _ s, ?_⟩
  rw [Function.iterate_succ_apply]
  split
  · next hedge =>
    obtain ⟨hmode, hprev, hrest⟩ := btnpoll_of_draws_no_edge hdraws hedge
    have hshift : List.replicate (k + 1) b ++ rest = List.replicate k b ++ b :: rest := by simp [List.replicate_succ']
    obtain ⟨hmodes, hprevs⟩ := btnpoll_iterate_of_held k (hrest.trans hshift) hprev
    exact ⟨hprevs, by rw [hmodes, hmode]⟩
  · next hedge =>
    have hb : b ≠ 0 := fun hb => hedge (hb ▸ zero_risingEdges _)
    obtain ⟨hmode, hprev, hrest⟩ := btnpoll_of_draws_confirmed hdraws hedge hb
    obtain ⟨hmodes, hprevs⟩ := btnpoll_iterate_of_held k hrest hprev
    exact ⟨hprevs, by rw [hmodes, hmode, nextMode_val]⟩

/-! ## MODE (R170, R23) -/

/-- MODE is the register of number 0 (R190). -/
theorem eq_zero_of_ofNum_eq_mode {reg : Byte} (h : DebugReg.ofNum reg = some .mode) : reg = 0 := by
  unfold DebugReg.ofNum at h
  split at h
  · next hreg => exact BitVec.eq_of_toNat_eq hreg
  all_goals cases h

/-- A debug write that changes MODE is a write of its register. -/
theorem eq_mode_of_writeDebug_mode_ne {s : State} {v : Byte} {r : DebugReg} (h : (writeDebug s v r).mode ≠ s.mode) :
    r = .mode := by
  rcases writeDebug_cases s v r with ⟨_, hw⟩ | ⟨_, hr, _⟩ | ⟨_, _, hw⟩ | ⟨_, hw⟩ | ⟨_, hw⟩ | ⟨_, _, hw⟩
  case inr.inl => exact hr
  all_goals exact absurd (congrArg State.mode hw) h

/-- A poll that changes MODE advances it. -/
theorem btnpoll_mode_of_ne {s : State} (h : (btnpoll s).mode ≠ s.mode) : (btnpoll s).mode.val = (s.mode.val + 1) % 6 := by
  rcases btnpoll_cases s with ⟨_, hb⟩ | ⟨_, _, hb⟩ | ⟨_, _, hb⟩ <;> rw [hb] at h ⊢
  · exact absurd rfl h
  · exact absurd rfl h
  · exact nextMode_val s.mode

/-- Settles O51, effect by effect: FRAME polls in the MODE it found, and all but three commands leave MODE. -/
theorem modeAdvancesCyclically : Obligations.ModeAdvancesCyclically := by
  intro i s t h hne
  cases effect_of_exec h with
  | btnpoll => exact .inl ⟨by simp, btnpoll_mode_of_ne hne⟩
  | frame =>
    have hbefore : (txframe (render s)).mode = s.mode := by simp
    rw [← hbefore] at hne ⊢
    exact .inl ⟨by simp, btnpoll_mode_of_ne hne⟩
  | csrwr hreg =>
    cases eq_mode_of_writeDebug_mode_ne hne
    cases eq_zero_of_ofNum_eq_mode hreg
    exact .inr ⟨_, rfl⟩
  | render => exact absurd (render_mode s) hne
  | _ => exact absurd rfl hne

/-! ## The renderer (R173) -/

theorem rotation_of_lt {s : State} (h : s.tcnt.toNat < s.cfg.tRoll) : rotation s = rollpt s := if_pos h

theorem rotation_of_le {s : State} (h : s.cfg.tRoll ≤ s.tcnt.toNat) : rotation s = rainbow s := if_neg (Nat.not_lt.mpr h)

theorem renderMode_of_mode_zero {s : State} (h : s.mode = 0) : renderMode s = rotation s := by
  simp [renderMode, h]

theorem renderMode_of_mode_one {s : State} (h : s.mode = 1) : renderMode s = dim s.cfg.dimKMode1 (rotation s) := by
  simp [renderMode, h]

/-- A fill emits nothing (R112). -/
theorem renderMode_trace_of_two_le {s : State} (h : 2 ≤ s.mode.val) : (renderMode s).trace = s.trace := by
  rcases renderMode_cases s with ⟨hm, _⟩ | ⟨hm, _⟩ | ⟨hm, _⟩ | ⟨hm, _⟩ | ⟨_, hr⟩ | ⟨_, hr⟩ | ⟨_, hr⟩ | ⟨_, hr⟩
  case inl | inr.inl | inr.inr.inl | inr.inr.inr.inl => exact absurd h (by simp [hm])
  all_goals rw [hr, pbfill_trace]

/-- The frame time counter goes back to 0 at T_PERIOD. -/
theorem nextTcnt_toNat_eq_ite {c : Config} (hlegal : c.legal = true) {x : BitVec 16} (hx : x.toNat < c.tPeriod) :
    (nextTcnt c x).toNat = if x.toNat + 1 = c.tPeriod then 0 else x.toNat + 1 := by
  rw [nextTcnt_toNat hlegal hx]
  split
  · next hwrap => rw [hwrap, Nat.mod_self]
  · next hwrap => exact Nat.mod_eq_of_lt (by omega)

/-- Settles O37: the state before the counter advances is the generator's, mode by mode. -/
theorem renderSelectsTheGenerator : Obligations.RenderSelectsTheGenerator := by
  refine ⟨fun s hlegal htcnt => ?_, encodedZ_of_row (o := .render) rfl fun _ => rfl⟩
  refine ⟨renderMode s, nextTcnt s.cfg s.tcnt, rfl, nextTcnt_toNat_eq_ite hlegal htcnt, fun hm ht => ?_,
    fun hm ht => ?_, fun hm ht => ⟨rollpt s, rfl, ?_⟩, fun hm ht => ⟨rainbow s, rfl, ?_⟩, fun hm => ?_,
    fun hm => ?_, fun hm => ?_, fun hm => ?_, renderMode_trace_of_two_le⟩
  · rw [renderMode_of_mode_zero hm, rotation_of_lt ht]
    rfl
  · rw [renderMode_of_mode_zero hm, rotation_of_le ht]
    rfl
  · rw [renderMode_of_mode_one hm, rotation_of_lt ht]
    rfl
  · rw [renderMode_of_mode_one hm, rotation_of_le ht]
    rfl
  all_goals
    simp only [renderMode, hm]
    rfl

/-! ## The main-loop iteration (R175, R176) -/

/-- Settles O39: RENDER and BTNPOLL extend the observation, and TXFRAME ends it with the settle Pace. -/
theorem frameRendersTransmitsPolls : Obligations.FrameRendersTransmitsPolls := by
  refine ⟨fun s => ?_, encodedZ_of_row (o := .frame) rfl fun _ => rfl⟩
  obtain ⟨es, -, hrender, -⟩ := undriven_render s
  obtain ⟨fs, -, hpoll, -⟩ := undriven_btnpoll (txframe (render s))
  refine ⟨render s, txframe (render s), frame s, rfl, rfl, rfl, rfl, render_mode s, by simp, frame_fault s,
    es ++ (txBits s.cfg.n (render s).pb).flatMap bitEvents, fs, ?_, hpoll⟩
  rw [txframe_trace, hrender]
  simp

/-- Settles O40: neither TXFRAME nor BTNPOLL writes the buffer, and the receiver samples what was rendered. -/
theorem everyFrameSentIsTheFrameRendered : Obligations.EveryFrameSentIsTheFrameRendered := by
  intro s t d h
  cases h
  exact ⟨render s, txframe (render s), rfl, rfl, rfl, rfl, btnpoll_pb _, by rw [sampledBits_frame, txBits_eq_stream]⟩

end Sys2Proof.Machine
end

section
/-! PROOFS. 44_system.md: NOP, and what a debug register holds, takes and refuses. -/

namespace Sys2Proof.Machine

/-! ## The register map (R190) -/

/-- The number of a debug register (R190). -/
def DebugReg.num : DebugReg → Nat
  | .mode => 0x00
  | .tcntLo => 0x01
  | .tcntHi => 0x02
  | .btnPrev => 0x03
  | .rbSub => 0x04
  | .rbStep => 0x05
  | .rbR => 0x06
  | .rbG => 0x07
  | .rbB => 0x08
  | .rpCnt => 0x09
  | .rpPos => 0x0A
  | .rpCyc => 0x0B
  | .lines => 0x0C

theorem DebugReg.ofNum_eq_some_iff {reg : Byte} {r : DebugReg} : DebugReg.ofNum reg = some r ↔ reg.toNat = r.num := by
  constructor <;> intro h
  · unfold DebugReg.ofNum at h
    split at h <;> cases h <;> assumption
  · unfold DebugReg.ofNum
    rw [h]
    cases r <;> rfl

theorem DebugReg.ofNum_eq_none_iff {reg : Byte} : DebugReg.ofNum reg = none ↔ 0x0C < reg.toNat := by
  unfold DebugReg.ofNum
  split
  case h_14 =>
    simp only [imp_false, true_iff] at *
    omega
  all_goals simp [*]

theorem DebugReg.exists_num_eq {reg : Byte} (h : reg.toNat ≤ 0x0C) : ∃ r : DebugReg, reg.toNat = r.num := by
  cases hr : DebugReg.ofNum reg with
  | none => exact absurd (DebugReg.ofNum_eq_none_iff.mp hr) (Nat.not_lt.mpr h)
  | some r => exact ⟨r, DebugReg.ofNum_eq_some_iff.mp hr⟩

/-! ## Reading (R191) -/

theorem loByte_toNat (x : BitVec 16) : (x.extractLsb' 0 8).toNat = x.toNat % 256 :=
  BitVec.extractLsb'_toNat 0 8 x

theorem hiByte_toNat (x : BitVec 16) : (x.extractLsb' 8 8).toNat = x.toNat / 256 := by
  have hx := x.isLt
  rw [BitVec.extractLsb'_toNat, Nat.shiftRight_eq_div_pow]
  omega

theorem readDebug_toNat (s : State) (r : DebugReg) : (readDebug s r).toNat = Claims.registerByte s r.num := by
  cases r with
  | mode => exact Nat.mod_eq_of_lt (by omega)
  | tcntLo => exact loByte_toNat s.tcnt
  | tcntHi => exact hiByte_toNat s.tcnt
  | btnPrev | rbSub => exact BitVec.toNat_setWidth_of_le (by decide)
  | rpCyc => exact Nat.mod_eq_of_lt (by omega)
  | lines =>
    have hsclk := s.lines.sclk.toNat_le
    have hsdata := s.lines.sdata.toNat_le
    exact Nat.mod_eq_of_lt (by omega)
  | _ => rfl

theorem exec_csrrd_of_num {s : State} {reg : Byte} {r : DebugReg} (h : reg.toNat = r.num) :
    exec (.csrrd reg) s = .next (s.respond (readDebug s r)) := by
  simp [exec, execCsrrd, DebugReg.ofNum_eq_some_iff.mpr h]

theorem exec_csrrd_of_lt {s : State} {reg : Byte} (h : 0x0C < reg.toNat) :
    exec (.csrrd reg) s = .next (s.raiseFault .badReg) := by
  simp [exec, execCsrrd, DebugReg.ofNum_eq_none_iff.mpr h]

/-- Settles O42: a number up to 0x0C names a register, whose byte is R190's, and imm8 is reserved. -/
theorem csrrdRespondsTheRegister : Obligations.CsrrdRespondsTheRegister := by
  refine ⟨fun s reg h => ?_, fun s reg => exec_csrrd_of_lt,
    encoded_of_row (o := .csrrd) (fun w hop => ?_) (fun w i hi => (Option.some.inj hi).symm)⟩
  · obtain ⟨r, hr⟩ := DebugReg.exists_num_eq h
    exact ⟨readDebug s r, by rw [readDebug_toNat, hr], exec_csrrd_of_num hr⟩
  · unfold opField at hop
    simp [Claims.illegalWord, hop, Opcode.number]

/-! ## Writing (R192) -/

theorem exec_csrwr_of_num {s : State} {reg : Byte} (v : Byte) {r : DebugReg} (h : reg.toNat = r.num) :
    exec (.csrwr reg v) s = .next (writeDebug s v r) := by
  simp [exec, execCsrwr, DebugReg.ofNum_eq_some_iff.mpr h]

/-- LINES is read-only, and the numbers above it are reserved. -/
theorem exec_csrwr_of_le {s : State} {reg : Byte} (v : Byte) (h : 0x0C ≤ reg.toNat) :
    exec (.csrwr reg v) s = .next (s.raiseFault .badReg) := by
  rcases Nat.eq_or_lt_of_le h with hlines | hreserved
  · exact exec_csrwr_of_num (r := .lines) v hlines.symm
  · simp [exec, execCsrwr, DebugReg.ofNum_eq_none_iff.mpr hreserved]

/-- TCNT with its low byte replaced, as a number. -/
theorem tcnt_withLo_toNat (x : BitVec 16) (v : Byte) :
    (x.extractLsb' 8 8 ++ v : BitVec 16).toNat = 256 * (x.toNat / 256) + v.toNat := by
  rw [append8_toNat, hiByte_toNat]

/-- TCNT with its high byte replaced, as a number. -/
theorem tcnt_withHi_toNat (x : BitVec 16) (v : Byte) :
    (v ++ x.extractLsb' 0 8 : BitVec 16).toNat = 256 * v.toNat + x.toNat % 256 := by
  rw [append8_toNat, loByte_toNat]

section
variable {s : State} {v : Byte}

theorem writeTcnt_of_le {x : BitVec 16} {n : Nat} (hx : x.toNat = n) (h : s.cfg.tPeriod ≤ n) :
    writeTcnt s x = s.raiseFault .badValue :=
  if_pos (hx ▸ h)

theorem writeTcnt_of_lt {x : BitVec 16} {n : Nat} (hx : x.toNat = n) (h : ¬ s.cfg.tPeriod ≤ n) :
    writeTcnt s x = s.setTcnt x :=
  if_neg (hx ▸ h)

theorem writeDebug_of_badValue {r : DebugReg} (h : Claims.badValue s r.num v.toNat) :
    writeDebug s v r = s.raiseFault .badValue := by
  cases r with
  | mode | rpCyc => exact dif_neg (Nat.not_lt.mpr h)
  | tcntLo => exact writeTcnt_of_le (tcnt_withLo_toNat _ v) h
  | tcntHi => exact writeTcnt_of_le (tcnt_withHi_toNat _ v) h
  | btnPrev | rbSub | rpPos => exact if_pos h
  | _ => exact h.elim

theorem writeDebug_mode (h : ¬ Claims.badValue s 0x00 v.toNat) :
    ∃ m : Fin 6, m.val = v.toNat ∧ writeDebug s v .mode = s.setMode m :=
  have hv : v.toNat < 6 := Nat.lt_succ_of_le (Nat.not_lt.mp h)
  ⟨⟨v.toNat, hv⟩, rfl, dif_pos hv⟩

theorem writeDebug_tcntLo (h : ¬ Claims.badValue s 0x01 v.toNat) :
    ∃ x : BitVec 16, x.toNat = 256 * (s.tcnt.toNat / 256) + v.toNat ∧ writeDebug s v .tcntLo = s.setTcnt x :=
  ⟨_, tcnt_withLo_toNat _ v, writeTcnt_of_lt (tcnt_withLo_toNat _ v) h⟩

theorem writeDebug_tcntHi (h : ¬ Claims.badValue s 0x02 v.toNat) :
    ∃ x : BitVec 16, x.toNat = 256 * v.toNat + s.tcnt.toNat % 256 ∧ writeDebug s v .tcntHi = s.setTcnt x :=
  ⟨_, tcnt_withHi_toNat _ v, writeTcnt_of_lt (tcnt_withHi_toNat _ v) h⟩

theorem writeDebug_btnPrev (h : ¬ Claims.badValue s 0x03 v.toNat) :
    ∃ x : BitVec 2, x.toNat = v.toNat ∧ writeDebug s v .btnPrev = s.setBtnPrev x :=
  ⟨v.setWidth 2, Nat.mod_eq_of_lt (Nat.lt_succ_of_le (Nat.not_lt.mp h)), if_neg h⟩

theorem writeDebug_rbSub (h : ¬ Claims.badValue s 0x04 v.toNat) :
    ∃ x : BitVec 3, x.toNat = v.toNat ∧ writeDebug s v .rbSub = s.setRb { s.rb with sub := x } :=
  ⟨v.setWidth 3, Nat.mod_eq_of_lt (Nat.lt_succ_of_le (Nat.not_lt.mp h)), if_neg h⟩

theorem writeDebug_rpPos (h : ¬ Claims.badValue s 0x0A v.toNat) :
    writeDebug s v .rpPos = s.setRp { s.rp with pos := v } :=
  if_neg h

theorem writeDebug_rpCyc (h : ¬ Claims.badValue s 0x0B v.toNat) :
    ∃ x : Fin 7, x.val = v.toNat ∧ writeDebug s v .rpCyc = s.setRp { s.rp with cyc := x } :=
  have hv : v.toNat < 7 := Nat.lt_succ_of_le (Nat.not_lt.mp h)
  ⟨⟨v.toNat, hv⟩, rfl, dif_pos hv⟩

end

/-- A write whose state is known ends in that state. -/
theorem exists_next_of_exists {α : Type} {p : α → Prop} {t : State} {f : α → State} (h : ∃ x, p x ∧ t = f x) :
    ∃ x, p x ∧ (.next t : Host.Outcome State Fault Refusal) = .next (f x) :=
  h.imp fun _ => And.imp_right (congrArg _)

/-- Settles O43: each register's legal values are written as the lemmas above say, and both faults leave the rest. -/
theorem csrwrWritesOneRegister : Obligations.CsrwrWritesOneRegister := by
  refine ⟨fun s reg v => exec_csrwr_of_le v, fun s reg v hreg hbad => ?_,
    fun s v h => exists_next_of_exists (writeDebug_mode h), fun s v h => exists_next_of_exists (writeDebug_tcntLo h),
    fun s v h => exists_next_of_exists (writeDebug_tcntHi h), fun s v h => exists_next_of_exists (writeDebug_btnPrev h),
    fun s v h => exists_next_of_exists (writeDebug_rbSub h), fun s v => ⟨rfl, rfl, rfl, rfl, rfl⟩,
    fun s v h => congrArg Host.Outcome.next (writeDebug_rpPos h), fun s v h => exists_next_of_exists (writeDebug_rpCyc h),
    encoded_of_row (o := .csrwr) (fun w hop => ?_) (fun w i hi => (Option.some.inj hi).symm)⟩
  · obtain ⟨r, hr⟩ := DebugReg.exists_num_eq (Nat.le_of_lt hreg)
    rw [hr] at hbad
    rw [exec_csrwr_of_num v hr, writeDebug_of_badValue hbad]
    rfl
  · unfold opField at hop
    simp [Claims.illegalWord, hop, Opcode.number]

/-! ## A read after a write (R190 to R192) -/

theorem readDebug_writeDebug {s : State} {v : Byte} {r : DebugReg} (hr : r.num < 0x0C)
    (h : ¬ Claims.badValue s r.num v.toNat) : readDebug (writeDebug s v r) r = v := by
  refine BitVec.eq_of_toNat_eq ((readDebug_toNat _ r).trans ?_)
  cases r with
  | mode =>
    obtain ⟨m, hm, hw⟩ := writeDebug_mode h
    exact (congrArg (Claims.registerByte · 0x00) hw).trans hm
  | tcntLo =>
    obtain ⟨x, hx, hw⟩ := writeDebug_tcntLo h
    have hv := v.isLt
    have hbyte : x.toNat % 256 = v.toNat := by omega
    exact (congrArg (Claims.registerByte · 0x01) hw).trans hbyte
  | tcntHi =>
    obtain ⟨x, hx, hw⟩ := writeDebug_tcntHi h
    have hbyte : x.toNat / 256 = v.toNat := by omega
    exact (congrArg (Claims.registerByte · 0x02) hw).trans hbyte
  | btnPrev =>
    obtain ⟨x, hx, hw⟩ := writeDebug_btnPrev h
    exact (congrArg (Claims.registerByte · 0x03) hw).trans hx
  | rbSub =>
    obtain ⟨x, hx, hw⟩ := writeDebug_rbSub h
    exact (congrArg (Claims.registerByte · 0x04) hw).trans hx
  | rpPos => exact congrArg (Claims.registerByte · 0x0A) (writeDebug_rpPos h)
  | rpCyc =>
    obtain ⟨x, hx, hw⟩ := writeDebug_rpCyc h
    exact (congrArg (Claims.registerByte · 0x0B) hw).trans hx
  | lines => exact absurd hr (Nat.lt_irrefl _)
  | _ => rfl

/-- Settles O44: without a fault the register is writable and the value legal, and the register then holds it. -/
theorem debugWriteReadsBack : Obligations.DebugWriteReadsBack := by
  intro s reg v t _ hexec ht
  rcases Nat.lt_or_ge reg.toNat 0x0C with hreg | hreg
  · obtain ⟨r, hr⟩ := DebugReg.exists_num_eq (Nat.le_of_lt hreg)
    rw [exec_csrwr_of_num v hr] at hexec
    cases hexec
    have hlegal : ¬ Claims.badValue s r.num v.toNat := by
      intro hbad
      rw [writeDebug_of_badValue hbad] at ht
      cases ht
    exact ⟨_, exec_csrrd_of_num hr, congrArg some (readDebug_writeDebug (hr ▸ hreg) hlegal)⟩
  · rw [exec_csrwr_of_le v hreg] at hexec
    cases hexec
    cases ht

/-! ## NOP (R193) -/

theorem exec_nop (s : State) : exec .nop s = .next s := rfl

/-- The one word of NOP is 0. -/
theorem decode_zero : decode 0 = .ok .nop := by decide

/-- Settles O41: an offered word 0 is taken and runs NOP. -/
theorem nopChangesNothing : Obligations.NopChangesNothing :=
  ⟨exec_nop, fun s rest h => (stepRunsTheOfferedCommand s 0 rest .nop h decode_zero).trans (exec_nop _),
    encodedZ_of_row (o := .nop) rfl fun _ => rfl⟩

end Sys2Proof.Machine
end

section
/-! PROOFS. 60_exceptions.md: the fault port, which command raises which fault and in what order, and what a fault leaves. -/

namespace Sys2Proof.Machine

/-! ## The faulted state (R200, R203) -/

/-- The codes 5 to 7 are never produced (R32). -/
theorem FaultCode.code_toNat_le (code : FaultCode) : code.code.toNat ≤ 4 := by
  cases code <;> decide

/-- Settles O45: the port is the code of FAULT, whose values are R200's row by row. -/
theorem faultPortShowsTheCode : Obligations.FaultPortShowsTheCode := by
  refine fun s => ⟨?_, s.fault.code_toNat_le⟩
  unfold State.faultPort
  cases s.fault <;> rfl

/-- Settles O9: with `rst` low the test of FAULT comes before a word is fetched, and the port is open only where FAULT = 0. -/
theorem faultedBlockHalts : Obligations.FaultedBlockHalts := by
  intro s hlegal hrst hfault
  have hproceed : s.proceed = .fault (.halted s.fault) := if_pos hfault
  exact ⟨by simp [step, hlegal, hrst, hproceed], by simp [State.cmdReady, hfault]⟩

/-! ## Which command raises which fault (R201) -/

/-- The operand checks of R201 that fail, each with the code it reports. -/
inductive Raises (s : State) : Instr → FaultCode → Prop where
  | pbrd {idx : Byte} {ch : Channel} (hidx : s.cfg.n ≤ idx.toNat) : Raises s (.pbrd idx ch) .badIndex
  | pbwr {idx : Byte} {ch : Channel} {v : Byte} (hidx : s.cfg.n ≤ idx.toNat) : Raises s (.pbwr idx ch v) .badIndex
  | csrrd {reg : Byte} (hreg : 0x0C < reg.toNat) : Raises s (.csrrd reg) .badReg
  | csrwrReg {reg v : Byte} (hreg : 0x0C ≤ reg.toNat) : Raises s (.csrwr reg v) .badReg
  | csrwrValue {reg v : Byte} (hreg : reg.toNat < 0x0C) (hbad : Claims.badValue s reg.toNat v.toNat) :
      Raises s (.csrwr reg v) .badValue

theorem exec_csrwr_of_badValue {s : State} {reg v : Byte} (hreg : reg.toNat < 0x0C)
    (hbad : Claims.badValue s reg.toNat v.toNat) : exec (.csrwr reg v) s = .next (s.raiseFault .badValue) := by
  obtain ⟨-, hvalue, -⟩ := csrwrWritesOneRegister
  exact hvalue s reg v hreg hbad

/-- A command whose check fails raises that fault and does nothing else (R202). -/
theorem exec_of_raises {s : State} {i : Instr} {code : FaultCode} (h : Raises s i code) :
    exec i s = .next (s.raiseFault code) := by
  cases h with
  | pbrd hidx => exact exec_pbrd_of_le _ hidx
  | pbwr hidx => exact exec_pbwr_of_le _ _ hidx
  | csrrd hreg => exact exec_csrrd_of_lt hreg
  | csrwrReg hreg => exact exec_csrwr_of_le _ hreg
  | csrwrValue hreg hbad => exact exec_csrwr_of_badValue hreg hbad

/-- A legal value for a writable register raises nothing (R192). -/
theorem writeDebug_fault {s : State} {v : Byte} {r : DebugReg} (hr : r.num < 0x0C)
    (h : ¬ Claims.badValue s r.num v.toNat) : (writeDebug s v r).fault = s.fault := by
  cases r with
  | mode =>
    obtain ⟨_, -, hw⟩ := writeDebug_mode h
    simp [hw]
  | tcntLo =>
    obtain ⟨_, -, hw⟩ := writeDebug_tcntLo h
    simp [hw]
  | tcntHi =>
    obtain ⟨_, -, hw⟩ := writeDebug_tcntHi h
    simp [hw]
  | btnPrev =>
    obtain ⟨_, -, hw⟩ := writeDebug_btnPrev h
    simp [hw]
  | rbSub =>
    obtain ⟨_, -, hw⟩ := writeDebug_rbSub h
    simp [hw]
  | rpPos => simp [writeDebug_rpPos h]
  | rpCyc =>
    obtain ⟨_, -, hw⟩ := writeDebug_rpCyc h
    simp [hw]
  | lines => exact absurd hr (Nat.lt_irrefl _)
  | _ => rfl

/-- A debug write either fails one of its two checks or keeps FAULT. -/
theorem raises_or_writeDebug_fault (s : State) {reg : Byte} (v : Byte) {r : DebugReg} (hreg : reg.toNat = r.num) :
    (∃ code, Raises s (.csrwr reg v) code) ∨ (writeDebug s v r).fault = s.fault := by
  rcases Nat.lt_or_ge reg.toNat 0x0C with hlt | hle
  · by_cases hbad : Claims.badValue s reg.toNat v.toNat
    · exact .inl ⟨_, .csrwrValue hlt hbad⟩
    · exact .inr (writeDebug_fault (hreg ▸ hlt) (hreg ▸ hbad))
  · exact .inl ⟨_, .csrwrReg hle⟩

/-- A command changes FAULT only where one of its checks fails: no other command raises a fault, nested ones included. -/
theorem raises_or_fault_eq {i : Instr} {s t : State} (h : exec i s = .next t) :
    (∃ code, Raises s i code) ∨ t.fault = s.fault := by
  cases effect_of_exec h with
  | pbrdFault hidx => exact .inl ⟨_, .pbrd hidx⟩
  | pbwrFault hidx => exact .inl ⟨_, .pbwr hidx⟩
  | csrrdFault hreg => exact .inl ⟨_, .csrrd (DebugReg.ofNum_eq_none_iff.mp hreg)⟩
  | csrwrFault hreg => exact .inl ⟨_, .csrwrReg (Nat.le_of_lt (DebugReg.ofNum_eq_none_iff.mp hreg))⟩
  | csrwr hreg => exact raises_or_writeDebug_fault s _ (DebugReg.ofNum_eq_some_iff.mp hreg)
  | render => exact .inr (render_fault s)
  | btnpoll => exact .inr (btnpoll_fault s)
  | frame => exact .inr (frame_fault s)
  | _ => exact .inr rfl

/-- A command that changes FAULT changes nothing else, and emits nothing (R202). -/
theorem eq_raiseFault_of_exec {i : Instr} {s t : State} (h : exec i s = .next t) (hne : t.fault ≠ s.fault) :
    t = s.raiseFault t.fault := by
  obtain ⟨code, hraises⟩ := (raises_or_fault_eq h).resolve_right hne
  rw [exec_of_raises hraises] at h
  cases h
  rfl

/-- From FAULT = 0 a command ends with the code of its check that failed. -/
theorem fault_eq_iff_raises {i : Instr} {s t : State} (hs : s.fault = .noFault) (h : exec i s = .next t)
    {code : FaultCode} (hcode : code ≠ .noFault) : t.fault = code ↔ Raises s i code := by
  constructor
  · intro ht
    have hne : t.fault ≠ s.fault := by rwa [hs, ht]
    obtain ⟨code', hraises⟩ := (raises_or_fault_eq h).resolve_right hne
    rw [exec_of_raises hraises] at h
    cases h
    exact ht ▸ hraises
  · intro hraises
    rw [exec_of_raises hraises] at h
    cases h
    rfl

section
variable {s : State} {i : Instr}

theorem raises_badIndex_iff : Raises s i .badIndex ↔
    ∃ idx ch, (i = .pbrd idx ch ∨ ∃ v, i = .pbwr idx ch v) ∧ s.cfg.n ≤ idx.toNat := by
  constructor
  · intro h
    cases h with
    | pbrd hidx => exact ⟨_, _, .inl rfl, hidx⟩
    | pbwr hidx => exact ⟨_, _, .inr ⟨_, rfl⟩, hidx⟩
  · rintro ⟨idx, ch, rfl | ⟨v, rfl⟩, hidx⟩
    · exact .pbrd hidx
    · exact .pbwr hidx

theorem raises_badReg_iff : Raises s i .badReg ↔
    (∃ reg, i = .csrrd reg ∧ 0x0C < reg.toNat) ∨ ∃ reg v, i = .csrwr reg v ∧ 0x0C ≤ reg.toNat := by
  constructor
  · intro h
    cases h with
    | csrrd hreg => exact .inl ⟨_, rfl, hreg⟩
    | csrwrReg hreg => exact .inr ⟨_, _, rfl, hreg⟩
  · rintro (⟨reg, rfl, hreg⟩ | ⟨reg, v, rfl, hreg⟩)
    · exact .csrrd hreg
    · exact .csrwrReg hreg

theorem raises_badValue_iff : Raises s i .badValue ↔
    ∃ reg v, i = .csrwr reg v ∧ reg.toNat < 0x0C ∧ Claims.badValue s reg.toNat v.toNat := by
  constructor
  · intro h
    cases h with
    | csrwrValue hreg hbad => exact ⟨_, _, rfl, hreg, hbad⟩
  · rintro ⟨reg, v, rfl, hreg, hbad⟩
    exact .csrwrValue hreg hbad

/-- No command's own check reports ILLEGAL_CMD: that is the decoder's (R90). -/
theorem not_raises_illegalCmd : ¬ Raises s i .illegalCmd := nofun

/-- Taking a word changes nothing the checks read. -/
theorem Raises.accept {code : FaultCode} (h : Raises s i code) : Raises s.accept i code := by
  cases h with
  | pbrd hidx => exact .pbrd hidx
  | pbwr hidx => exact .pbwr hidx
  | csrrd hreg => exact .csrrd hreg
  | csrwrReg hreg => exact .csrwrReg hreg
  | csrwrValue hreg hbad => exact .csrwrValue hreg hbad

end

/-! ## The step of an offered word (R202, R204) -/

section
variable {s : State} {w : CmdWord} {rest : List CmdWord} (h : s.Offers w rest)
include h

theorem accept_fault_of_offers : s.accept.fault = .noFault := by
  obtain ⟨⟨-, -, hfault⟩, -, -⟩ := h
  exact hfault

theorem step_of_illegalWord (hw : Claims.illegalWord w) : step s = .next (s.accept.raiseFault .illegalCmd) := by
  obtain ⟨e, he⟩ := (illegalWord_iff_decode_error w).mp hw
  rw [step_of_offers h, runWord_of_decode_error s he]

/-- The checks of a decoded command are those of `Raises`, and one that fails is the fault reported. -/
theorem exists_step_of_raises {i : Instr} (hi : decode w = .ok i) {code : FaultCode} (hraises : Raises s i code) :
    ∃ t, step s = .next t ∧ t.fault = code := by
  rw [step_of_offers h, runWord_of_decode s hi]
  exact ⟨_, exec_of_raises hraises.accept, rfl⟩

/-- All that a step with a word offered can do: reject the word, or run the command it decodes to. -/
theorem step_cases_of_offers {t : State} (hstep : step s = .next t) :
    (Claims.illegalWord w ∧ t = s.accept.raiseFault .illegalCmd) ∨
      ¬ Claims.illegalWord w ∧ ∃ i, exec i s.accept = .next t := by
  by_cases hw : Claims.illegalWord w
  · rw [step_of_illegalWord h hw] at hstep
    cases hstep
    exact .inl ⟨hw, rfl⟩
  · refine .inr ⟨hw, ?_⟩
    rw [step_of_offers h] at hstep
    rw [illegalWord_iff_decode_error] at hw
    cases hi : decode w with
    | error e => exact absurd ⟨e, hi⟩ hw
    | ok i => exact ⟨i, (runWord_of_decode s hi).symm.trans hstep⟩

theorem fault_eq_illegalCmd_iff {t : State} (hstep : step s = .next t) :
    t.fault = .illegalCmd ↔ Claims.illegalWord w := by
  obtain ⟨hw, rfl⟩ | ⟨hw, i, hexec⟩ := step_cases_of_offers h hstep
  · exact iff_of_true rfl hw
  · refine iff_of_false (fun ht => ?_) hw
    exact not_raises_illegalCmd ((fault_eq_iff_raises (accept_fault_of_offers h) hexec (by decide)).mp ht)

/-- A host command that faults is taken, and changes nothing else but FAULT (R202). -/
theorem eq_raiseFault_of_step {t : State} (hstep : step s = .next t) (ht : t.fault ≠ .noFault) :
    t = s.accept.raiseFault t.fault := by
  obtain ⟨-, rfl⟩ | ⟨-, i, hexec⟩ := step_cases_of_offers h hstep
  · rfl
  · exact eq_raiseFault_of_exec hexec (by rwa [accept_fault_of_offers h])

end

/-- Settles O46: the only outcome that changes FAULT is `raiseFault`, of the state before a command or after a word is taken. -/
theorem faultsArePrecise : Obligations.FaultsArePrecise := by
  refine ⟨fun i s t => eq_raiseFault_of_exec, fun s w rest t h hstep ht => ?_⟩
  have hfault := eq_raiseFault_of_step h hstep ht
  rwa [accept_of_offers h] at hfault

/-- Settles O47: the decoder raises ILLEGAL_CMD, the checks of `Raises` the other codes, and the sequencer's FRAME keeps FAULT. -/
theorem eachCommandRaisesItsFaults : Obligations.EachCommandRaisesItsFaults := by
  refine ⟨fun s w rest t h => fault_eq_illegalCmd_iff h, fun i s t hs h => ?_, fun s t h ha hstep => ?_⟩
  · have hfault : ∀ {code : FaultCode}, code ≠ .noFault → (t.fault = code ↔ Raises s i code) := fault_eq_iff_raises hs h
    exact ⟨(hfault (by decide)).trans raises_badIndex_iff, (hfault (by decide)).trans raises_badReg_iff,
      (hfault (by decide)).trans raises_badValue_iff⟩
  · rw [step_of_autorun h ha] at hstep
    cases hstep
    obtain ⟨-, -, hfault⟩ := h
    exact (frame_fault _).trans hfault

/-- Settles O48: a word that decodes to nothing never reaches its command's checks, and those exclude each other. -/
theorem faultPriority : Obligations.FaultPriority := by
  intro s w rest h
  refine ⟨fun hw => ⟨_, step_of_illegalWord h hw, rfl⟩, fun reg hi hreg => exists_step_of_raises h hi (.csrrd hreg),
    fun reg v hi hreg => exists_step_of_raises h hi (.csrwrReg hreg),
    fun reg v hi hreg hbad => exists_step_of_raises h hi (.csrwrValue hreg hbad), ?_⟩
  rintro idx ch (hi | ⟨v, hi⟩) hidx
  · exact exists_step_of_raises h hi (.pbrd hidx)
  · exact exists_step_of_raises h hi (.pbwr hidx)

end Sys2Proof.Machine
end

section
/-! PROOFS. 70_reset_and_hazards.md: the Pace events, what every step keeps, the idle wait, reset, and completion. -/

namespace Sys2Proof.Machine

/-! ## The Pace events of a command (R229) -/

/-- From `s` to `t` the observation grows by a piece whose Pace events have the durations `ps`. -/
def Paced (s t : State) (ps : List Nat) : Prop := ∃ es, t.trace = s.trace ++ es ∧ paces es = ps

theorem Paced.trans {s t u : State} {ps qs : List Nat} (h : Paced s t ps) (h' : Paced t u qs) : Paced s u (ps ++ qs) := by
  obtain ⟨es, htrace, hes⟩ := h
  obtain ⟨fs, htrace', hfs⟩ := h'
  exact ⟨es ++ fs, by rw [htrace', htrace, List.append_assoc], by rw [paces_append, hes, hfs]⟩

theorem paced_of_trace_eq {s t : State} (h : t.trace = s.trace) : Paced s t [] := ⟨[], by rw [h, List.append_nil], rfl⟩

theorem Paced.paces_drop {s t : State} {ps : List Nat} (h : Paced s t ps) : paces (t.trace.drop s.trace.length) = ps := by
  obtain ⟨es, htrace, hes⟩ := h
  rw [drop_trace_eq htrace, hes]

theorem paced_rainbow (s : State) : Paced s (rainbow s) [s.cfg.rbPaceMs] := ⟨_, rainbow_trace s, rfl⟩

theorem paced_rollpt (s : State) : Paced s (rollpt s) [s.cfg.rpPaceMs] := ⟨_, rollpt_trace s, rfl⟩

theorem paced_txframe (s : State) : Paced s (txframe s) [s.cfg.txSettleMs] := by
  refine ⟨_, txframe_trace s, ?_⟩
  rw [paces_append, paces_bitEvents]
  rfl

theorem pollPaces_of_no_edge {s : State} (h : risingEdges s.nextDraw s.btnPrev = 0) : Claims.pollPaces s = [] := if_pos h

theorem pollPaces_of_edge {s : State} (h : risingEdges s.nextDraw s.btnPrev ≠ 0) :
    Claims.pollPaces s = [s.cfg.debounceMs] := if_neg h

/-- Only a rising edge is debounced (R171). -/
theorem paced_btnpoll (s : State) : Paced s (btnpoll s) (Claims.pollPaces s) := by
  by_cases hedge : risingEdges s.nextDraw s.btnPrev = 0
  · rw [btnpoll_no_edge hedge, pollPaces_of_no_edge hedge]
    exact ⟨[.draw s.nextDraw], rfl, rfl⟩
  · rw [btnpoll_of_edge hedge, pollPaces_of_edge hedge]
    exact ⟨_, rfl, rfl⟩

/-- The rotation's Pace is that of the generator TCNT selects (R173). -/
theorem paced_rotation (s : State) :
    Paced s (rotation s) (if s.tcnt.toNat < s.cfg.tRoll then [s.cfg.rpPaceMs] else [s.cfg.rbPaceMs]) := by
  by_cases ht : s.tcnt.toNat < s.cfg.tRoll
  · rw [rotation_of_lt ht, if_pos ht]
    exact paced_rollpt s
  · rw [rotation_of_le (Nat.le_of_not_lt ht), if_neg ht]
    exact paced_rainbow s

/-- Below mode 2 the generator is the rotation, whose observation DIM leaves. -/
theorem renderMode_trace_of_lt_two {s : State} (h : s.mode.val < 2) : (renderMode s).trace = (rotation s).trace := by
  have hm : s.mode = 0 ∨ s.mode = 1 := by omega
  obtain hm | hm := hm
  · rw [renderMode_of_mode_zero hm]
  · rw [renderMode_of_mode_one hm, dim_trace]

theorem paced_render (s : State) : Paced s (render s) (Claims.renderPaces s) := by
  unfold Claims.renderPaces
  split
  · next hm => exact paced_of_trace_eq (renderMode_trace_of_two_le hm)
  · next hm =>
    obtain ⟨es, htrace, hes⟩ := paced_rotation s
    exact ⟨es, (renderMode_trace_of_lt_two (Nat.lt_of_not_le hm)).trans htrace, hes⟩

/-- RENDER and TXFRAME leave what the poll's edge test reads. -/
theorem pollPaces_txframe_render (s : State) : Claims.pollPaces (txframe (render s)) = Claims.pollPaces s := by
  have hdraw : (txframe (render s)).nextDraw = s.nextDraw := State.nextDraw_congr (render_draws s) (render_drawCount s)
  simp [Claims.pollPaces, hdraw]

theorem paced_frame (s : State) :
    Paced s (frame s) (Claims.renderPaces s ++ [s.cfg.txSettleMs] ++ Claims.pollPaces s) := by
  have hsettle := paced_txframe (render s)
  have hpoll := paced_btnpoll (txframe (render s))
  rw [render_cfg] at hsettle
  rw [pollPaces_txframe_render] at hpoll
  exact ((paced_render s).trans hsettle).trans hpoll

/-- The commands R229 does not name emit no Pace. -/
theorem paced_of_effect {i : Instr} {s t : State} (he : Effect s i t)
    (hi : i ∉ [Instr.rainbow, .rollpt, .txframe, .btnpoll, .render, .frame]) : Paced s t [] := by
  cases he with
  | rainbow | rollpt | txframe | btnpoll | render | frame => simp at hi
  | pbrd | csrrd => exact ⟨[.resp _], rfl, rfl⟩
  | csrwr => exact paced_of_trace_eq (writeDebug_trace _ _ _)
  | _ => exact paced_of_trace_eq rfl

theorem txframe_trace_getLast? (s : State) : (txframe s).trace.getLast? = some (.pace s.cfg.txSettleMs) := by
  rw [txframe_trace, ← List.append_assoc, List.getLast?_concat]

/-- Settles O22: each command's piece of the observation has its Paces, and those of FRAME are its three parts' in order. -/
theorem pacingOfEachCommand : Obligations.PacingOfEachCommand := by
  refine ⟨fun i s t h hi => (paced_of_effect (effect_of_exec h) hi).paces_drop, ?_, ?_, ?_, ?_, ?_, ?_, rfl, rfl, rfl, rfl⟩
  all_goals
    intro s t h
    cases h
  · exact rainbow_trace s
  · exact rollpt_trace s
  · exact ⟨(paced_txframe s).paces_drop, txframe_trace_getLast? s⟩
  · exact (paced_btnpoll s).paces_drop
  · exact (paced_render s).paces_drop
  · exact (paced_frame s).paces_drop

/-! ## What every step keeps (R224, R178) -/

theorem exec_keeps_configuration {i : Instr} {s t : State} (h : exec i s = .next t) :
    t.cfg = s.cfg ∧ ∃ es, t.trace = s.trace ++ es := by
  obtain ⟨-, -, -, -, -, -, -, -, -, -, hcfg, -⟩ := eachStateItemHasItsWriters i s t h
  obtain ⟨es, htrace, -⟩ := linesFollow_of_effect (effect_of_exec h)
  exact ⟨hcfg, es, htrace⟩

/-- With `rst` low the block keeps its parameters and extends its observation. -/
theorem proceed_keeps_configuration {s t : State} (h : s.proceed = .next t) :
    t.cfg = s.cfg ∧ ∃ es, t.trace = s.trace ++ es := by
  obtain ⟨-, ⟨_, _, -, -, hexec⟩ | ⟨_, _, -, -, rfl⟩ | ⟨-, rfl⟩⟩ := proceed_cases h
  · have hkept := exec_keeps_configuration hexec
    exact hkept
  · exact ⟨rfl, [], (List.append_nil _).symm⟩
  · exact ⟨rfl, [], (List.append_nil _).symm⟩

/-- Settles O54: reset keeps both, and an abandoned command's first entries extend the observation. -/
theorem stepKeepsTheConfiguration : Obligations.StepKeepsTheConfiguration := by
  intro s t h
  obtain ⟨-, ⟨-, hp⟩ | ⟨-, rfl⟩ | ⟨k, -, rfl⟩⟩ := step_cases h
  · exact proceed_keeps_configuration hp
  · exact ⟨rfl, [], (List.append_nil _).symm⟩
  · exact ⟨rfl, _, rfl⟩

/-! ## The idle wait (R221) -/

theorem step_of_fetchWord_none {s : State} (h : s.Ready) (hw : s.fetchWord = none) : step s = .next s.idle := by
  obtain ⟨hlegal, hrst, hfault⟩ := h
  simp [step, State.proceed, hlegal, hrst, hfault, hw]

theorem cmdReady_of_ready {s : State} (h : s.Ready) (ha : s.cfg.autorun = false) : s.cmdReady = true := by
  obtain ⟨-, -, hfault⟩ := h
  simp [State.cmdReady, ha, hfault]

/-- Settles O8: with AUTORUN = 0 and no word on the port there is none to fetch. -/
theorem idleStepWaits : Obligations.IdleStepWaits :=
  fun s h ha hp => ⟨step_of_fetchWord_none h (by simp [State.fetchWord, ha, hp]), cmdReady_of_ready h ha⟩

/-! ## Reset (R220, R222) -/

theorem step_of_rst_high {s : State} (hlegal : s.cfg.legal = true) (h : s.rst = .high) : step s = .next s.applyReset := by
  simp [step, hlegal, h]

theorem step_of_rst_rises {s : State} (hlegal : s.cfg.legal = true) {k : Nat} (h : s.rst = .rises k) :
    step s = .next (s.abandon k { s with rst := .low }.proceed) := by
  simp [step, hlegal, h]

theorem step_of_rst_low {s : State} (hlegal : s.cfg.legal = true) (h : s.rst = .low) : step s = s.proceed := by
  simp [step, hlegal, h]

/-- The reset state, with the environment's inputs and the observation as given. -/
def State.resetWith (c : Config) (pending : List CmdWord) (draws : List Buttons) (drawCount : Nat) (trace : List Event) : State :=
  { State.resetOf c with pending := pending, draws := draws, drawCount := drawCount, trace := trace }

/-- Either reset step ends in the reset state. At a boundary the observation stays; inside a command its first entries are added. -/
theorem exists_step_reset {s : State} (hlegal : s.cfg.legal = true) (hrst : s.rst ≠ .low) :
    ∃ pending draws drawCount trace, step s = .next (State.resetWith s.cfg pending draws drawCount trace) ∧
      (s.rst = .high → trace = s.trace) ∧
      ∀ k, s.rst = .rises k → trace = s.trace ++ (s.newEntries { s with rst := .low }.proceed).take k := by
  cases h : s.rst with
  | low => exact absurd h hrst
  | high => exact ⟨_, _, _, _, step_of_rst_high hlegal h, fun _ => rfl, nofun⟩
  | rises k =>
    refine ⟨_, _, _, _, step_of_rst_rises hlegal h, nofun, fun j hj => ?_⟩
    cases hj
    rfl

/-- Settles O11: both reset steps end in the reset state, and the whole command's new entries are those the abandoned one is cut from. -/
theorem resetSetsEveryPieceOfState : Obligations.ResetSetsEveryPieceOfState := by
  intro s hlegal hrst
  obtain ⟨_, _, _, _, hstep, hhigh, hrises⟩ := exists_step_reset hlegal hrst
  refine ⟨_, hstep, fun _ => rfl, rfl, rfl, rfl, rfl, rfl, rfl, rfl, rfl, rfl, rfl, rfl, rfl, rfl, rfl, rfl, hhigh,
    fun k u hk hu => ?_⟩
  have hproceed : ({ s with rst := .low } : State).proceed = .next u :=
    (step_of_rst_low (s := { s with rst := .low }) hlegal rfl).symm.trans hu
  obtain ⟨-, es, htrace⟩ := proceed_keeps_configuration hproceed
  have hentries : s.newEntries { s with rst := .low }.proceed = es := by
    rw [hproceed]
    exact drop_trace_eq htrace
  exact ⟨es, htrace, hentries ▸ hrises k hk⟩

/-- Settles O53: reset gives the legal values, and the defaults of R8 are in its ranges. -/
theorem resetMeetsTheInvariant : Obligations.ResetMeetsTheInvariant := ⟨fun _ => inv_resetOf, inv_resetOf (by decide)⟩

/-! ## Completion (R230) -/

/-- Settles O49: where a command checks an operand, both outcomes of the check are next states. -/
theorem everyCommandCompletes : Obligations.EveryCommandCompletes := by
  intro i s
  cases i with
  | pbrd idx ch =>
    rcases Nat.lt_or_ge idx.toNat s.cfg.n with hidx | hidx
    · exact ⟨_, exec_pbrd_of_lt ch hidx⟩
    · exact ⟨_, exec_pbrd_of_le ch hidx⟩
  | pbwr idx ch v =>
    rcases Nat.lt_or_ge idx.toNat s.cfg.n with hidx | hidx
    · exact ⟨_, exec_pbwr_of_lt ch v hidx⟩
    · exact ⟨_, exec_pbwr_of_le ch v hidx⟩
  | csrrd reg =>
    rcases Nat.lt_or_ge 0x0C reg.toNat with hreg | hreg
    · exact ⟨_, exec_csrrd_of_lt hreg⟩
    · obtain ⟨r, hr⟩ := DebugReg.exists_num_eq hreg
      exact ⟨_, exec_csrrd_of_num hr⟩
  | csrwr reg v =>
    rcases Nat.lt_or_ge reg.toNat 0x0C with hreg | hreg
    · obtain ⟨r, hr⟩ := DebugReg.exists_num_eq (Nat.le_of_lt hreg)
      exact ⟨_, exec_csrwr_of_num v hr⟩
    · exact ⟨_, exec_csrwr_of_le v hreg⟩
  | _ => exact ⟨_, rfl⟩

end Sys2Proof.Machine
end
